-- ==== Sys2Proof/Word.lean ====
section
/-! DEFINITION. The three word types of the spec (00_scope.md R5, R6): `u8`, `u32` and the 16-bit command word. -/

namespace Sys2Proof

/-- `u32`: a CRC register value or a table word, `W = 32` bits (R5, R6). -/
abbrev Word := BitVec 32

/-- `u8`: a message byte, a byte value or a table index, `BYTE = IDXW = 8` bits (R5, R6). -/
abbrev Byte := BitVec 8

/-- A command word of the host port, `CMDW = 16` bits (R5, R36). -/
abbrev CmdWord := BitVec 16

end Sys2Proof
end

