-- ==== Sys2Proof/Syntax.lean ====
section
/-! DEFINITION. The seven commands of the block (30_encoding.md R41), one constructor per row of the opcode table, in the
table's order. -/

namespace Sys2Proof

/-- A command of the block. Format `A` commands carry their byte operand as the type `Byte`: every value `0..255` is a legal
operand of every one of them (R40). Format `Z` commands carry none (R39). -/
inductive Instr where
  /-- `GENF n`: the forward-generator output for byte value `n` (R52). -/
  | genf (n : Byte)
  /-- `GENR n`: the reverse-generator output for byte value `n` (R53). -/
  | genr (n : Byte)
  /-- `LUTF i`: word `i` of the forward-table ROM (R62). -/
  | lutf (i : Byte)
  /-- `LUTR i`: word `i` of the reverse-table ROM (R63). -/
  | lutr (i : Byte)
  /-- `INIT`: start a message (R71). -/
  | init
  /-- `UPD b`: advance the register by one message byte (R72). -/
  | upd (b : Byte)
  /-- `FIN`: read out the checksum of the bytes taken so far (R73). -/
  | fin
  deriving DecidableEq, Repr

end Sys2Proof
end

