-- ==== Sys2Proof/WellFormed.lean ====
section
/-! DEFINITION. Which command words and which operands are well formed (30_encoding.md R36, R39, R40, R42), as three checks
over the fields of a word and one over the number written as an operand. -/

namespace Sys2Proof

/-- The three fields of a command word (R36): `op = cmd[15:12]`, `rsv = cmd[11:8]`, `arg = cmd[7:0]`. -/
structure Fields where
  op  : BitVec 4
  rsv : BitVec 4
  arg : Byte
  deriving DecidableEq, Repr

/-- The reserved field must be `0` (R36; its breach is ground (b) of R42). -/
def Fields.rsvOk (f : Fields) : Bool := f.rsv == 0#4

/-- The operation code is one of the map's, `0x1` to `0x7` (R41; its breach is ground (a) of R42). -/
def Fields.opOk (f : Fields) : Bool := f.op != 0#4 && f.op.ult 8#4

/-- The operation codes of the two format `Z` commands, `INIT` and `FIN` (R39, R41). -/
def Fields.formatZ (f : Fields) : Bool := f.op == 5#4 || f.op == 7#4

/-- A format `Z` word has `arg = 0` (R36, R39; its breach is ground (c) of R42). -/
def Fields.argOk (f : Fields) : Bool := !f.formatZ || f.arg == 0#8

/-- The fields are those of a command: all three checks hold (R41, R42). -/
def Fields.wf (f : Fields) : Bool := f.rsvOk && f.opOk && f.argOk

/-- A number written as an operand is one of the 256 byte values (R40, R44). -/
def operandInRange (n : Nat) : Bool := n < 256

/-- The operand of a command, where it has one (R39). -/
def Instr.operand : Instr → Option Byte
  | .genf n => some n
  | .genr n => some n
  | .lutf i => some i
  | .lutr i => some i
  | .init => none
  | .upd b => some b
  | .fin => none

/-- A command is well formed when its operand is in the range of R40. The type of the operand already sees to it
(`Laws.instr_wf`): R40 makes every byte value legal for every format `A` command, so no command is ill formed. Ill-formed
are raw words (`Fields.wf`) and numbers written as operands (`operandInRange`). -/
def Instr.wf (i : Instr) : Bool := i.operand.all fun n => operandInRange n.toNat

end Sys2Proof
end

