-- ==== Sys2Proof/Decode.lean ====
section
/-! DEFINITION. The opcode map, the decoder and the encoder (30_encoding.md R36, R39, R41, R42; 60_exceptions.md R106). The
decoder is total on all 65536 words and names the ground on which it rejects one. -/

namespace Sys2Proof

/-- The fields of a command word, at the bit positions of R36. -/
def fieldsOf (w : CmdWord) : Fields where
  op := w.extractLsb' 12 4
  rsv := w.extractLsb' 8 4
  arg := w.extractLsb' 0 8

/-- Why a word is illegal: the three grounds of R42 (b), (a), (c). The host sees one response for all of them (R106), so
this name never leaves the decoder (log 6). -/
inductive IllegalCause where
  /-- `rsv != 0`, whatever `op` is (R42 (b)). -/
  | reservedNonzero
  /-- `op` is `0x0` or any of `0x8` to `0xF` (R42 (a)). -/
  | undefinedOp
  /-- `op` is `0x5` or `0x7` and `arg != 0` (R42 (c)). -/
  | operandNonzero
  deriving DecidableEq, Repr

/-- A format `Z` command, whose `arg` must be `0` (R39). -/
def decodeZ (arg : Byte) (i : Instr) : Except IllegalCause Instr :=
  if arg = 0#8 then .ok i else .error .operandNonzero

/-- The command an operation code selects when `rsv = 0` (R41). -/
def decodeOp (op : BitVec 4) (arg : Byte) : Except IllegalCause Instr :=
  match op with
  | 0x1#4 => .ok (.genf arg)
  | 0x2#4 => .ok (.genr arg)
  | 0x3#4 => .ok (.lutf arg)
  | 0x4#4 => .ok (.lutr arg)
  | 0x5#4 => decodeZ arg .init
  | 0x6#4 => .ok (.upd arg)
  | 0x7#4 => decodeZ arg .fin
  | _ => .error .undefinedOp

/-- The decoder over fields, its checks in the order of R106: `rsv`, then `op`, then `arg`. -/
def decodeFields (f : Fields) : Except IllegalCause Instr :=
  if f.rsv = 0#4 then decodeOp f.op f.arg else .error .reservedNonzero

/-- The decoder: the command a word is, or the ground on which it is illegal (R41, R42). Every word is 16 bits long; there
are no prefixes, modes or second words (R43). -/
def decode (w : CmdWord) : Except IllegalCause Instr := decodeFields (fieldsOf w)

/-- A command word written as a number, in the numbering of spec/opcode_table.json: bit 0 of `w` is bit 0 of the word, and the
bits at and above `nbits` are 0. A command word is a value, with no byte order (R23, R28; log 4). -/
def commandOfNat (nbits w : Nat) : CmdWord := BitVec.ofNat 16 (w % 2 ^ nbits)

/-- The decoder's answer on a command word written as a number; none where it rejects the word. -/
def decodeTableWord (nbits w : Nat) : Option Instr := (decode (commandOfNat nbits w)).toOption

/-- The operation code of a command (R41). -/
def opcodeOf : Instr → BitVec 4
  | .genf _ => 0x1#4
  | .genr _ => 0x2#4
  | .lutf _ => 0x3#4
  | .lutr _ => 0x4#4
  | .init => 0x5#4
  | .upd _ => 0x6#4
  | .fin => 0x7#4

/-- The `arg` field of a command: its operand, `0` where it has none (R36, R39). -/
def argOf (i : Instr) : Byte := i.operand.getD 0#8

/-- The encoder: `(op << 12) | arg`, which for a format `Z` command is `op << 12` (R44). -/
def encode (i : Instr) : CmdWord := ((opcodeOf i).setWidth 16 <<< 12) ||| (argOf i).setWidth 16

/-- A row of the opcode map (R41): the words `w` with `(w & mask) == pattern`. -/
structure OpcodeRow where
  pattern : CmdWord
  mask    : CmdWord
  deriving DecidableEq, Repr

/-- A word is the command of a row exactly when `(cmd & mask) == match` (R41). -/
def OpcodeRow.accepts (r : OpcodeRow) (w : CmdWord) : Bool := (w &&& r.mask) == r.pattern

/-- The row of a command in the table of R41, its match and mask as that table writes them. -/
def rowOf : Instr → OpcodeRow
  | .genf _ => ⟨0x1000#16, 0xFF00#16⟩
  | .genr _ => ⟨0x2000#16, 0xFF00#16⟩
  | .lutf _ => ⟨0x3000#16, 0xFF00#16⟩
  | .lutr _ => ⟨0x4000#16, 0xFF00#16⟩
  | .init => ⟨0x5000#16, 0xFFFF#16⟩
  | .upd _ => ⟨0x6000#16, 0xFF00#16⟩
  | .fin => ⟨0x7000#16, 0xFFFF#16⟩

/-- The seven rows of R41, in its order. -/
def opcodeMap : List OpcodeRow :=
  [rowOf (.genf 0), rowOf (.genr 0), rowOf (.lutf 0), rowOf (.lutr 0), rowOf .init, rowOf (.upd 0), rowOf .fin]

end Sys2Proof
end

