-- ==== Sys2Proof/Machine/Operands.lean ====
section
/-! DEFINITION. Operand assembly and the bit-field and byte-order helpers (00_scope.md R7, 20_memory.md R23, R24,
30_encoding.md R40). The one operand of a command is its byte `arg`, exactly as it stands (R40). -/

namespace Sys2Proof.Machine

/-- `zext32(b)`: a byte widened with zeros in bits 31:8 (R7). -/
def zext32 (b : Byte) : Word := b.setWidth 32

/-- `lo8(v) = v[7:0]` (R7). -/
def lo8 (v : Word) : Byte := v.extractLsb' 0 8

/-- `hi8(v) = v[31:24]` (R7). -/
def hi8 (v : Word) : Byte := v.extractLsb' 24 8

/-- `LE4(v)`: the four bytes of a word, lowest first (R7, R23). -/
def le4 (v : Word) : List Byte :=
  [v.extractLsb' 0 8, v.extractLsb' 8 8, v.extractLsb' 16 8, v.extractLsb' 24 8]

/-- The computed table index of a forward step, `lo8(r ^ zext32(b))`: the message byte on the low eight bits of the register
(R21, R24, R70). -/
def stepIndex (r : Word) (b : Byte) : Byte := lo8 (r ^^^ zext32 b)

end Sys2Proof.Machine
end

