-- ==== Sys2Proof/Config.lean ====
section
/-! DEFINITION. The parameters of 00_scope.md R5 that are values: the constants the source fixes, and the one OPEN
parameter. -/

namespace Sys2Proof.Config

/-- `POLY`, the polynomial constant (R1, R5). -/
def poly : Word := 0xEDB88320#32

/-- `INITV`, the register value at the start of a message (R5). -/
def initv : Word := 0xFFFFFFFF#32

/-- `XOROUT`, the final XOR (R5). -/
def xorout : Word := 0xFFFFFFFF#32

/-- `PATCHW`, the width in bytes of the patch window of the host procedure FIXCRC (R5). -/
def patchw : Nat := 4

/-- `MAXLEN`, the largest buffer length a host accepts: OPEN (R5, U5). A constant with no body, so that no proof can
rest on a number (log 7). -/
opaque maxlen : Nat

/-- Whether a host accepts a buffer of this length (R5, U5). The block has no length limit (R77), and no procedure of the
model tests this: what a host does with a longer buffer is not in the source (log 7). -/
def acceptsLength (len : Nat) : Prop := len ≤ maxlen

end Sys2Proof.Config
end

