-- ==== Sys2Proof/Machine/State.lean ====
section
/-! DEFINITION. The state of the block, the block with its port, the responses, and the ways a step can stop (10_state.md, 30_encoding.md
R37, 60_exceptions.md R112). -/

namespace Sys2Proof.Machine

/-- The response of a command: a closed type with exactly these members (R37, R112). -/
inductive Response where
  /-- `NONE`: the command completed and returns no value. -/
  | none
  /-- `DATA(v)`: the command completed and returns the 32-bit value `v`. -/
  | data (v : Word)
  /-- `ILLEGAL`: the word is not a command, and nothing was done (R42, R103). -/
  | illegal
  deriving DecidableEq, Repr

/-- The state of the block, with the one field R19 gives it. The two tables are constant functions and no field (R11, R12, R18,
R19; log 5), and there is nothing else (R13 to R16). -/
structure Block where
  /-- `REG`, the raw running CRC value, before the final XOR (R10). -/
  reg : Word
  deriving DecidableEq, Repr

/-- The machine that runs by itself: the block with its host port. `commands` and `responses` are the two sides of the port, which
the spec holds outside the block: the input and the observation of a run (R35, R126; log 1). No command reads or writes either:
a command's effect is a function on `Block` alone (`Block.step`, R19, R38). -/
structure State extends Block where
  /-- The command words the host has presented and the block has not yet taken, oldest first (R126; log 1). -/
  commands : List CmdWord
  /-- The responses given so far, oldest first, one per command taken (R35, R126; log 1). -/
  responses : List Response
  deriving DecidableEq, Repr

/-- The faults of the block: none. Its operations raise no exceptions (R100), it has no traps (R107), and an illegal word is
answered with a response, not a trap (R103). A closed type with no member, so that no step can end in a fault (log 13). -/
inductive Fault
  deriving DecidableEq, Repr

/-- The refusals of the model. -/
inductive Refusal where
  /-- Raised by `exec` for a command that has no meaning yet: safe, the model stops where the block goes on. No arm of `exec`
  raises it: all seven commands have their meaning. -/
  | notModelled (mnemonic : String)
  deriving DecidableEq, Repr

/-- The block right after reset: `REG = 0xFFFFFFFF` (R17, R115; the spec's decision D9, log 3). -/
def Block.reset : Block where
  reg := 0xFFFFFFFF#32

/-- The machine right after reset: the block after reset (R17, R115), no command presented and none answered (the model's own
fields, log 1). -/
def State.reset : State where
  toBlock := Block.reset
  commands := []
  responses := []

end Sys2Proof.Machine
end

