-- ==== Sys2Proof/Machine/Ops.lean ====
section
/-! DEFINITION. The named operations over the block and its port that the meanings share. There is no exception entry and
no return from one (60_exceptions.md R107): the one abnormal outcome is the response `ILLEGAL` (R103). -/

namespace Sys2Proof.Machine

/-- `REG <- v` (R8, R10): all 32 bits, no hardwired bit, no alias. -/
def Block.writeReg (b : Block) (v : Word) : Block := { b with reg := v }

/-- `respond r` (R8, R37): the block as the command leaves it, with its one response: what a step returns (R19, R38). -/
def Block.respond (b : Block) (r : Response) : Block × Response := (b, r)

/-- What an illegal word does: the response `ILLEGAL`, `REG` and the tables untouched, nothing recorded, nothing sticky
(R42, R103). -/
def Block.rejectWord (b : Block) : Block × Response := b.respond .illegal

/-- A command completes on the machine: the block becomes what the command leaves, and its response goes out on the port, after
the responses already given (R29, R35; log 1). -/
def State.complete (s : State) (result : Block × Response) : State where
  toBlock := result.1
  commands := s.commands
  responses := s.responses ++ [result.2]

/-- The host presents a command word, which the block takes next (R35). -/
def State.present (s : State) (w : CmdWord) : State := { s with commands := w :: s.commands }

/-- The block takes the next command word, where one is presented (R29, R35). -/
def State.take (s : State) : Option (CmdWord × State) :=
  match s.commands with
  | [] => .none
  | w :: rest => .some (w, { s with commands := rest })

/-- An illegal word on the machine: the block rejects it, and the port carries the response `ILLEGAL` (R42, R103). -/
def State.rejectWord (s : State) : State := s.complete s.toBlock.rejectWord

end Sys2Proof.Machine
end

