-- ==== Sys2Proof/Machine/Generator.lean ====
section
/-! DEFINITION. The table generator: `genf`, `genr` (40_table_generator.md R50, R51) and the meanings of `GENF` and `GENR`
(R52, R53). The polynomial is an argument of the two functions and wired to `POLY` in the commands (00_scope.md R5, R54). -/

namespace Sys2Proof.Machine

/-- One iteration of R50: the test is on bit 0 before the shift, the XOR on the value after it. -/
def genfStep (p c : Word) : Word :=
  if c.getLsbD 0 then (c >>> 1) ^^^ p else c >>> 1

/-- One iteration of R51: the test is on bit 31 before the shift, the XOR is before the shift, and bit 0 is set after it
(90_conflicts.md C1). -/
def genrStep (p c : Word) : Word :=
  if c.getLsbD 31 then ((c ^^^ p) <<< 1) ||| 1#32 else c <<< 1

/-- `k` iterations of a generator step. -/
def iterate (f : Word → Word) : Nat → Word → Word
  | 0, c => c
  | k + 1, c => iterate f k (f c)

/-- `genf(p, n)`, the forward generator function (R50). -/
def genf (p : Word) (n : Byte) : Word := iterate (genfStep p) 8 (zext32 n)

/-- `genr(p, n)`, the reverse generator function (R51). -/
def genr (p : Word) (n : Byte) : Word := iterate (genrStep p) 8 (zext32 n <<< 24)

/-- `GENF n`: `respond DATA(genf(POLY, n))`; `REG` unchanged (R52). -/
def applyGenf (n : Byte) (blk : Block) : Block × Response :=
  blk.respond (.data (genf Config.poly n))

/-- The meaning of `GENF n` (R52): `applyGenf` on the block, completed on the port. -/
def execGenf (n : Byte) (s : State) : Host.Outcome State Fault Refusal :=
  .next (s.complete (applyGenf n s.toBlock))

/-- `GENR n`: `respond DATA(genr(POLY, n))`; `REG` unchanged (R53). -/
def applyGenr (n : Byte) (blk : Block) : Block × Response :=
  blk.respond (.data (genr Config.poly n))

/-- The meaning of `GENR n` (R53): `applyGenr` on the block, completed on the port. -/
def execGenr (n : Byte) (s : State) : Host.Outcome State Fault Refusal :=
  .next (s.complete (applyGenr n s.toBlock))

end Sys2Proof.Machine
end

