-- ==== Sys2Proof/Machine/TableRom.lean ====
section
/-! DEFINITION. The table ROM (41_table_rom.md): its contents, as sections 4 and 5 of that file list them, and the meanings of
`LUTF` and `LUTR` (R62, R63). Where a listing and the generator's rule disagree, the rule governs (R60, R61); that they agree
is a statement of its own (log 5). -/

namespace Sys2Proof.Machine

/-- The forward-table listing (R60, section 4), words `0x00` to `0x1F`. -/
def ftabPart0 : List Word :=
  [0x00000000#32, 0x77073096#32, 0xEE0E612C#32, 0x990951BA#32, 0x076DC419#32, 0x706AF48F#32, 0xE963A535#32, 0x9E6495A3#32,
   0x0EDB8832#32, 0x79DCB8A4#32, 0xE0D5E91E#32, 0x97D2D988#32, 0x09B64C2B#32, 0x7EB17CBD#32, 0xE7B82D07#32, 0x90BF1D91#32,
   0x1DB71064#32, 0x6AB020F2#32, 0xF3B97148#32, 0x84BE41DE#32, 0x1ADAD47D#32, 0x6DDDE4EB#32, 0xF4D4B551#32, 0x83D385C7#32,
   0x136C9856#32, 0x646BA8C0#32, 0xFD62F97A#32, 0x8A65C9EC#32, 0x14015C4F#32, 0x63066CD9#32, 0xFA0F3D63#32, 0x8D080DF5#32]

/-- The forward-table listing (R60, section 4), words `0x20` to `0x3F`. -/
def ftabPart1 : List Word :=
  [0x3B6E20C8#32, 0x4C69105E#32, 0xD56041E4#32, 0xA2677172#32, 0x3C03E4D1#32, 0x4B04D447#32, 0xD20D85FD#32, 0xA50AB56B#32,
   0x35B5A8FA#32, 0x42B2986C#32, 0xDBBBC9D6#32, 0xACBCF940#32, 0x32D86CE3#32, 0x45DF5C75#32, 0xDCD60DCF#32, 0xABD13D59#32,
   0x26D930AC#32, 0x51DE003A#32, 0xC8D75180#32, 0xBFD06116#32, 0x21B4F4B5#32, 0x56B3C423#32, 0xCFBA9599#32, 0xB8BDA50F#32,
   0x2802B89E#32, 0x5F058808#32, 0xC60CD9B2#32, 0xB10BE924#32, 0x2F6F7C87#32, 0x58684C11#32, 0xC1611DAB#32, 0xB6662D3D#32]

/-- The forward-table listing (R60, section 4), words `0x40` to `0x5F`. -/
def ftabPart2 : List Word :=
  [0x76DC4190#32, 0x01DB7106#32, 0x98D220BC#32, 0xEFD5102A#32, 0x71B18589#32, 0x06B6B51F#32, 0x9FBFE4A5#32, 0xE8B8D433#32,
   0x7807C9A2#32, 0x0F00F934#32, 0x9609A88E#32, 0xE10E9818#32, 0x7F6A0DBB#32, 0x086D3D2D#32, 0x91646C97#32, 0xE6635C01#32,
   0x6B6B51F4#32, 0x1C6C6162#32, 0x856530D8#32, 0xF262004E#32, 0x6C0695ED#32, 0x1B01A57B#32, 0x8208F4C1#32, 0xF50FC457#32,
   0x65B0D9C6#32, 0x12B7E950#32, 0x8BBEB8EA#32, 0xFCB9887C#32, 0x62DD1DDF#32, 0x15DA2D49#32, 0x8CD37CF3#32, 0xFBD44C65#32]

/-- The forward-table listing (R60, section 4), words `0x60` to `0x7F`. -/
def ftabPart3 : List Word :=
  [0x4DB26158#32, 0x3AB551CE#32, 0xA3BC0074#32, 0xD4BB30E2#32, 0x4ADFA541#32, 0x3DD895D7#32, 0xA4D1C46D#32, 0xD3D6F4FB#32,
   0x4369E96A#32, 0x346ED9FC#32, 0xAD678846#32, 0xDA60B8D0#32, 0x44042D73#32, 0x33031DE5#32, 0xAA0A4C5F#32, 0xDD0D7CC9#32,
   0x5005713C#32, 0x270241AA#32, 0xBE0B1010#32, 0xC90C2086#32, 0x5768B525#32, 0x206F85B3#32, 0xB966D409#32, 0xCE61E49F#32,
   0x5EDEF90E#32, 0x29D9C998#32, 0xB0D09822#32, 0xC7D7A8B4#32, 0x59B33D17#32, 0x2EB40D81#32, 0xB7BD5C3B#32, 0xC0BA6CAD#32]

/-- The forward-table listing (R60, section 4), words `0x80` to `0x9F`. -/
def ftabPart4 : List Word :=
  [0xEDB88320#32, 0x9ABFB3B6#32, 0x03B6E20C#32, 0x74B1D29A#32, 0xEAD54739#32, 0x9DD277AF#32, 0x04DB2615#32, 0x73DC1683#32,
   0xE3630B12#32, 0x94643B84#32, 0x0D6D6A3E#32, 0x7A6A5AA8#32, 0xE40ECF0B#32, 0x9309FF9D#32, 0x0A00AE27#32, 0x7D079EB1#32,
   0xF00F9344#32, 0x8708A3D2#32, 0x1E01F268#32, 0x6906C2FE#32, 0xF762575D#32, 0x806567CB#32, 0x196C3671#32, 0x6E6B06E7#32,
   0xFED41B76#32, 0x89D32BE0#32, 0x10DA7A5A#32, 0x67DD4ACC#32, 0xF9B9DF6F#32, 0x8EBEEFF9#32, 0x17B7BE43#32, 0x60B08ED5#32]

/-- The forward-table listing (R60, section 4), words `0xA0` to `0xBF`. -/
def ftabPart5 : List Word :=
  [0xD6D6A3E8#32, 0xA1D1937E#32, 0x38D8C2C4#32, 0x4FDFF252#32, 0xD1BB67F1#32, 0xA6BC5767#32, 0x3FB506DD#32, 0x48B2364B#32,
   0xD80D2BDA#32, 0xAF0A1B4C#32, 0x36034AF6#32, 0x41047A60#32, 0xDF60EFC3#32, 0xA867DF55#32, 0x316E8EEF#32, 0x4669BE79#32,
   0xCB61B38C#32, 0xBC66831A#32, 0x256FD2A0#32, 0x5268E236#32, 0xCC0C7795#32, 0xBB0B4703#32, 0x220216B9#32, 0x5505262F#32,
   0xC5BA3BBE#32, 0xB2BD0B28#32, 0x2BB45A92#32, 0x5CB36A04#32, 0xC2D7FFA7#32, 0xB5D0CF31#32, 0x2CD99E8B#32, 0x5BDEAE1D#32]

/-- The forward-table listing (R60, section 4), words `0xC0` to `0xDF`. -/
def ftabPart6 : List Word :=
  [0x9B64C2B0#32, 0xEC63F226#32, 0x756AA39C#32, 0x026D930A#32, 0x9C0906A9#32, 0xEB0E363F#32, 0x72076785#32, 0x05005713#32,
   0x95BF4A82#32, 0xE2B87A14#32, 0x7BB12BAE#32, 0x0CB61B38#32, 0x92D28E9B#32, 0xE5D5BE0D#32, 0x7CDCEFB7#32, 0x0BDBDF21#32,
   0x86D3D2D4#32, 0xF1D4E242#32, 0x68DDB3F8#32, 0x1FDA836E#32, 0x81BE16CD#32, 0xF6B9265B#32, 0x6FB077E1#32, 0x18B74777#32,
   0x88085AE6#32, 0xFF0F6A70#32, 0x66063BCA#32, 0x11010B5C#32, 0x8F659EFF#32, 0xF862AE69#32, 0x616BFFD3#32, 0x166CCF45#32]

/-- The forward-table listing (R60, section 4), words `0xE0` to `0xFF`. -/
def ftabPart7 : List Word :=
  [0xA00AE278#32, 0xD70DD2EE#32, 0x4E048354#32, 0x3903B3C2#32, 0xA7672661#32, 0xD06016F7#32, 0x4969474D#32, 0x3E6E77DB#32,
   0xAED16A4A#32, 0xD9D65ADC#32, 0x40DF0B66#32, 0x37D83BF0#32, 0xA9BCAE53#32, 0xDEBB9EC5#32, 0x47B2CF7F#32, 0x30B5FFE9#32,
   0xBDBDF21C#32, 0xCABAC28A#32, 0x53B39330#32, 0x24B4A3A6#32, 0xBAD03605#32, 0xCDD70693#32, 0x54DE5729#32, 0x23D967BF#32,
   0xB3667A2E#32, 0xC4614AB8#32, 0x5D681B02#32, 0x2A6F2B94#32, 0xB40BBE37#32, 0xC30C8EA1#32, 0x5A05DF1B#32, 0x2D02EF8D#32]

/-- The reverse-table listing (R61, section 5), words `0x00` to `0x1F`. -/
def rtabPart0 : List Word :=
  [0x00000000#32, 0xDB710641#32, 0x6D930AC3#32, 0xB6E20C82#32, 0xDB261586#32, 0x005713C7#32, 0xB6B51F45#32, 0x6DC41904#32,
   0x6D3D2D4D#32, 0xB64C2B0C#32, 0x00AE278E#32, 0xDBDF21CF#32, 0xB61B38CB#32, 0x6D6A3E8A#32, 0xDB883208#32, 0x00F93449#32,
   0xDA7A5A9A#32, 0x010B5CDB#32, 0xB7E95059#32, 0x6C985618#32, 0x015C4F1C#32, 0xDA2D495D#32, 0x6CCF45DF#32, 0xB7BE439E#32,
   0xB74777D7#32, 0x6C367196#32, 0xDAD47D14#32, 0x01A57B55#32, 0x6C616251#32, 0xB7106410#32, 0x01F26892#32, 0xDA836ED3#32]

/-- The reverse-table listing (R61, section 5), words `0x20` to `0x3F`. -/
def rtabPart1 : List Word :=
  [0x6F85B375#32, 0xB4F4B534#32, 0x0216B9B6#32, 0xD967BFF7#32, 0xB4A3A6F3#32, 0x6FD2A0B2#32, 0xD930AC30#32, 0x0241AA71#32,
   0x02B89E38#32, 0xD9C99879#32, 0x6F2B94FB#32, 0xB45A92BA#32, 0xD99E8BBE#32, 0x02EF8DFF#32, 0xB40D817D#32, 0x6F7C873C#32,
   0xB5FFE9EF#32, 0x6E8EEFAE#32, 0xD86CE32C#32, 0x031DE56D#32, 0x6ED9FC69#32, 0xB5A8FA28#32, 0x034AF6AA#32, 0xD83BF0EB#32,
   0xD8C2C4A2#32, 0x03B3C2E3#32, 0xB551CE61#32, 0x6E20C820#32, 0x03E4D124#32, 0xD895D765#32, 0x6E77DBE7#32, 0xB506DDA6#32]

/-- The reverse-table listing (R61, section 5), words `0x40` to `0x5F`. -/
def rtabPart2 : List Word :=
  [0xDF0B66EA#32, 0x047A60AB#32, 0xB2986C29#32, 0x69E96A68#32, 0x042D736C#32, 0xDF5C752D#32, 0x69BE79AF#32, 0xB2CF7FEE#32,
   0xB2364BA7#32, 0x69474DE6#32, 0xDFA54164#32, 0x04D44725#32, 0x69105E21#32, 0xB2615860#32, 0x048354E2#32, 0xDFF252A3#32,
   0x05713C70#32, 0xDE003A31#32, 0x68E236B3#32, 0xB39330F2#32, 0xDE5729F6#32, 0x05262FB7#32, 0xB3C42335#32, 0x68B52574#32,
   0x684C113D#32, 0xB33D177C#32, 0x05DF1BFE#32, 0xDEAE1DBF#32, 0xB36A04BB#32, 0x681B02FA#32, 0xDEF90E78#32, 0x05880839#32]

/-- The reverse-table listing (R61, section 5), words `0x60` to `0x7F`. -/
def rtabPart3 : List Word :=
  [0xB08ED59F#32, 0x6BFFD3DE#32, 0xDD1DDF5C#32, 0x066CD91D#32, 0x6BA8C019#32, 0xB0D9C658#32, 0x063BCADA#32, 0xDD4ACC9B#32,
   0xDDB3F8D2#32, 0x06C2FE93#32, 0xB020F211#32, 0x6B51F450#32, 0x0695ED54#32, 0xDDE4EB15#32, 0x6B06E797#32, 0xB077E1D6#32,
   0x6AF48F05#32, 0xB1858944#32, 0x076785C6#32, 0xDC168387#32, 0xB1D29A83#32, 0x6AA39CC2#32, 0xDC419040#32, 0x07309601#32,
   0x07C9A248#32, 0xDCB8A409#32, 0x6A5AA88B#32, 0xB12BAECA#32, 0xDCEFB7CE#32, 0x079EB18F#32, 0xB17CBD0D#32, 0x6A0DBB4C#32]

/-- The reverse-table listing (R61, section 5), words `0x80` to `0x9F`. -/
def rtabPart4 : List Word :=
  [0x6567CB95#32, 0xBE16CDD4#32, 0x08F4C156#32, 0xD385C717#32, 0xBE41DE13#32, 0x6530D852#32, 0xD3D2D4D0#32, 0x08A3D291#32,
   0x085AE6D8#32, 0xD32BE099#32, 0x65C9EC1B#32, 0xBEB8EA5A#32, 0xD37CF35E#32, 0x080DF51F#32, 0xBEEFF99D#32, 0x659EFFDC#32,
   0xBF1D910F#32, 0x646C974E#32, 0xD28E9BCC#32, 0x09FF9D8D#32, 0x643B8489#32, 0xBF4A82C8#32, 0x09A88E4A#32, 0xD2D9880B#32,
   0xD220BC42#32, 0x0951BA03#32, 0xBFB3B681#32, 0x64C2B0C0#32, 0x0906A9C4#32, 0xD277AF85#32, 0x6495A307#32, 0xBFE4A546#32]

/-- The reverse-table listing (R61, section 5), words `0xA0` to `0xBF`. -/
def rtabPart5 : List Word :=
  [0x0AE278E0#32, 0xD1937EA1#32, 0x67717223#32, 0xBC007462#32, 0xD1C46D66#32, 0x0AB56B27#32, 0xBC5767A5#32, 0x672661E4#32,
   0x67DF55AD#32, 0xBCAE53EC#32, 0x0A4C5F6E#32, 0xD13D592F#32, 0xBCF9402B#32, 0x6788466A#32, 0xD16A4AE8#32, 0x0A1B4CA9#32,
   0xD098227A#32, 0x0BE9243B#32, 0xBD0B28B9#32, 0x667A2EF8#32, 0x0BBE37FC#32, 0xD0CF31BD#32, 0x662D3D3F#32, 0xBD5C3B7E#32,
   0xBDA50F37#32, 0x66D40976#32, 0xD03605F4#32, 0x0B4703B5#32, 0x66831AB1#32, 0xBDF21CF0#32, 0x0B101072#32, 0xD0611633#32]

/-- The reverse-table listing (R61, section 5), words `0xC0` to `0xDF`. -/
def rtabPart6 : List Word :=
  [0xBA6CAD7F#32, 0x611DAB3E#32, 0xD7FFA7BC#32, 0x0C8EA1FD#32, 0x614AB8F9#32, 0xBA3BBEB8#32, 0x0CD9B23A#32, 0xD7A8B47B#32,
   0xD7518032#32, 0x0C208673#32, 0xBAC28AF1#32, 0x61B38CB0#32, 0x0C7795B4#32, 0xD70693F5#32, 0x61E49F77#32, 0xBA959936#32,
   0x6016F7E5#32, 0xBB67F1A4#32, 0x0D85FD26#32, 0xD6F4FB67#32, 0xBB30E263#32, 0x6041E422#32, 0xD6A3E8A0#32, 0x0DD2EEE1#32,
   0x0D2BDAA8#32, 0xD65ADCE9#32, 0x60B8D06B#32, 0xBBC9D62A#32, 0xD60DCF2E#32, 0x0D7CC96F#32, 0xBB9EC5ED#32, 0x60EFC3AC#32]

/-- The reverse-table listing (R61, section 5), words `0xE0` to `0xFF`. -/
def rtabPart7 : List Word :=
  [0xD5E91E0A#32, 0x0E98184B#32, 0xB87A14C9#32, 0x630B1288#32, 0x0ECF0B8C#32, 0xD5BE0DCD#32, 0x635C014F#32, 0xB82D070E#32,
   0xB8D43347#32, 0x63A53506#32, 0xD5473984#32, 0x0E363FC5#32, 0x63F226C1#32, 0xB8832080#32, 0x0E612C02#32, 0xD5102A43#32,
   0x0F934490#32, 0xD4E242D1#32, 0x62004E53#32, 0xB9714812#32, 0xD4B55116#32, 0x0FC45757#32, 0xB9265BD5#32, 0x62575D94#32,
   0x62AE69DD#32, 0xB9DF6F9C#32, 0x0F3D631E#32, 0xD44C655F#32, 0xB9887C5B#32, 0x62F97A1A#32, 0xD41B7698#32, 0x0F6A70D9#32]

/-- The forward-table ROM: an ordered sequence of 256 words of 32 bits (R11, R60). -/
def ftabRom : Vector Word 256 :=
  ⟨(ftabPart0 ++ ftabPart1 ++ ftabPart2 ++ ftabPart3 ++ ftabPart4 ++ ftabPart5 ++ ftabPart6 ++ ftabPart7).toArray,
    by simp only [List.size_toArray, List.length_append]; rfl⟩

/-- The reverse-table ROM: an ordered sequence of 256 words of 32 bits (R12, R61). -/
def rtabRom : Vector Word 256 :=
  ⟨(rtabPart0 ++ rtabPart1 ++ rtabPart2 ++ rtabPart3 ++ rtabPart4 ++ rtabPart5 ++ rtabPart6 ++ rtabPart7).toArray,
    by simp only [List.size_toArray, List.length_append]; rfl⟩

/-- `FTAB[i]`: a read of the forward table. Every 8-bit index is valid (R21), the read has no side effect (R27). -/
def ftab (i : Byte) : Word := ftabRom[i.toNat]'i.isLt

/-- `RTAB[i]`: a read of the reverse table (R21, R27). -/
def rtab (i : Byte) : Word := rtabRom[i.toNat]'i.isLt

/-- `LUTF i`: `respond DATA(FTAB[i])`; `REG` unchanged (R62). -/
def applyLutf (i : Byte) (blk : Block) : Block × Response :=
  blk.respond (.data (ftab i))

/-- The meaning of `LUTF i` (R62): `applyLutf` on the block, completed on the port. -/
def execLutf (i : Byte) (s : State) : Host.Outcome State Fault Refusal :=
  .next (s.complete (applyLutf i s.toBlock))

/-- `LUTR i`: `respond DATA(RTAB[i])`; `REG` unchanged (R63). -/
def applyLutr (i : Byte) (blk : Block) : Block × Response :=
  blk.respond (.data (rtab i))

/-- The meaning of `LUTR i` (R63): `applyLutr` on the block, completed on the port. -/
def execLutr (i : Byte) (s : State) : Host.Outcome State Fault Refusal :=
  .next (s.complete (applyLutr i s.toBlock))

end Sys2Proof.Machine
end

