-- ==== Sys2Proof/Machine/Datapath.lean ====
section
/-! DEFINITION. The forward datapath: the step `crcstep` (42_forward_datapath.md R70), the meanings of `INIT`, `UPD` and `FIN`
(R71, R72, R73), and the whole-buffer functions `rawcrc` and `crc32` (R74). -/

namespace Sys2Proof.Machine

/-- `crcstep(r, b) = (r >> 8) ^ FTAB[lo8(r ^ zext32(b))]`, the shift logical (R70). -/
def crcstep (r : Word) (b : Byte) : Word := (r >>> 8) ^^^ ftab (stepIndex r b)

/-- `INIT`: `REG <- 0xFFFFFFFF`; `respond NONE` (R71). -/
def applyInit (blk : Block) : Block × Response :=
  (blk.writeReg Config.initv).respond .none

/-- The meaning of `INIT` (R71): `applyInit` on the block, completed on the port. -/
def execInit (s : State) : Host.Outcome State Fault Refusal :=
  .next (s.complete (applyInit s.toBlock))

/-- `UPD b`: `REG <- crcstep(REG, b)`; `respond NONE` (R72). It uses whatever `REG` holds (R117). -/
def applyUpd (b : Byte) (blk : Block) : Block × Response :=
  (blk.writeReg (crcstep blk.reg b)).respond .none

/-- The meaning of `UPD b` (R72): `applyUpd` on the block, completed on the port. -/
def execUpd (b : Byte) (s : State) : Host.Outcome State Fault Refusal :=
  .next (s.complete (applyUpd b s.toBlock))

/-- `FIN`: `respond DATA(REG ^ 0xFFFFFFFF)`; `REG` unchanged (R73). -/
def applyFin (blk : Block) : Block × Response :=
  blk.respond (.data (blk.reg ^^^ Config.xorout))

/-- The meaning of `FIN` (R73): `applyFin` on the block, completed on the port. -/
def execFin (s : State) : Host.Outcome State Fault Refusal :=
  .next (s.complete (applyFin s.toBlock))

/-- The recurrence from any register value over a byte sequence, in index order (R25, R74). -/
def crcFrom (r : Word) (buf : List Byte) : Word := buf.foldl crcstep r

/-- `rawcrc(buf)`: the register after the bytes of a message, before the final XOR (R74). -/
def rawcrc (buf : List Byte) : Word := crcFrom Config.initv buf

/-- `crc32(buf)`: the whole-buffer checksum (R74). Any length, zero included (R76). -/
def crc32 (buf : List Byte) : Word := rawcrc buf ^^^ Config.xorout

end Sys2Proof.Machine
end

