-- ==== Sys2Proof/Machine/Dispatch.lean ====
section
/-! DEFINITION. One arm per command of the opcode table (30_encoding.md R41), each a direct call of its meaning. -/

namespace Sys2Proof.Machine

def exec (i : Instr) (s : State) : Host.Outcome State Fault Refusal :=
  match i with
  | .genf n => Sys2Proof.Machine.execGenf n s
  | .genr n => Sys2Proof.Machine.execGenr n s
  | .lutf k => Sys2Proof.Machine.execLutf k s
  | .lutr k => Sys2Proof.Machine.execLutr k s
  | .init => Sys2Proof.Machine.execInit s
  | .upd b => Sys2Proof.Machine.execUpd b s
  | .fin => Sys2Proof.Machine.execFin s

end Sys2Proof.Machine
end

