-- ==== Sys2Proof/Machine/Step.lean ====
section
/-! DEFINITION. One step of the machine: the block takes the oldest presented command word and completes it, state change and
response, before it takes the next (20_memory.md R29, 30_encoding.md R35, R38). -/

namespace Sys2Proof.Machine

/-- One command word run to completion: a legal word runs its command (R41), any other is answered `ILLEGAL` (R42, R103). -/
def runWord (w : CmdWord) (s : State) : Host.Outcome State Fault Refusal :=
  match decode w with
  | .ok i => exec i s
  | .error _ => .next s.rejectWord

/-- One step. Where no command is presented nothing changes (R116; log 2): the block has no halt (R126) and waits for no
event (R125). -/
def step (s : State) : Host.Outcome State Fault Refusal :=
  match s.take with
  | some (w, s') => runWord w s'
  | none => .next s

/-- `s` with the command word of `nbits` bits `w` presented, so that the next step takes exactly it (log 1). -/
def State.withFetchWord (s : State) (nbits w : Nat) : State := s.present (commandOfNat nbits w)

end Sys2Proof.Machine
end

