-- ==== Sys2Proof/Machine/Assembler.lean ====
section
/-! DEFINITION. The assembler syntax and the pseudo-instructions (30_encoding.md R44 to R48; 92_eei_decisions.md D17): program
lines, their command words, and a reader of source text. What R44 leaves open of the lexical details is in log 12. -/

namespace Sys2Proof.Machine

/-- A line of a program. -/
inductive Line where
  /-- Nothing but white space or a comment. -/
  | blank
  /-- One command (R44). -/
  | command (i : Instr)
  /-- `BUILDF` (R45). -/
  | buildf
  /-- `BUILDR` (R46). -/
  | buildr
  /-- `DUMPF` (R48). -/
  | dumpf
  /-- `DUMPR` (R48). -/
  | dumpr
  /-- `CRC32 b0, b1, ..., b(k-1)` (R47). -/
  | crc32 (bytes : List Byte)
  /-- `.word`, a raw command word (D17). -/
  | raw (w : CmdWord)
  deriving DecidableEq, Repr

/-- The byte values `0, 1, ..., 255` in order (R45). -/
def allBytes : List Byte := (List.range 256).map (BitVec.ofNat 8)

/-- The commands a line expands to, as words (R44 to R48). -/
def Line.words : Line → List CmdWord
  | .blank => []
  | .command i => [encode i]
  | .buildf => allBytes.map fun n => encode (.genf n)
  | .buildr => allBytes.map fun n => encode (.genr n)
  | .dumpf => allBytes.map fun i => encode (.lutf i)
  | .dumpr => allBytes.map fun i => encode (.lutr i)
  | .crc32 bytes => encode .init :: (bytes.map fun b => encode (.upd b)) ++ [encode .fin]
  | .raw w => [w]

/-- A token of a source line. -/
inductive Token where
  /-- A run of characters that are no separator: a mnemonic or a number. -/
  | word (cs : List Char)
  /-- A character in single quotes, as its code (R44). -/
  | quoted (b : Byte)
  /-- A string in double quotes, as its ASCII bytes (R47). -/
  | text (bs : List Byte)
  | comma
  deriving DecidableEq, Repr

/-- Where the reader stands in a line. -/
inductive LexMode where
  | between
  | inWord (reversed : List Char)
  | afterQuote
  | afterQuotedChar (b : Byte)
  | inText (reversed : List Byte)
  | inComment
  deriving DecidableEq, Repr

def singleQuote : Char := Char.ofNat 39
def doubleQuote : Char := Char.ofNat 34

/-- The code of an ASCII character (R44, R47). -/
def asciiByte (c : Char) : Option Byte := if c.toNat < 128 then some (BitVec.ofNat 8 c.toNat) else none

/-- A space, a tab or a carriage return (log 12). -/
def isBlank (c : Char) : Bool := c == ' ' || c == Char.ofNat 9 || c == Char.ofNat 13

/-- The characters that end a word. -/
def isSeparator (c : Char) : Bool :=
  isBlank c || c == ';' || c == ',' || c == singleQuote || c == doubleQuote

/-- A character between tokens. `;` starts a comment (R44). -/
def lexBetween (toks : List Token) (c : Char) : LexMode × List Token :=
  if isBlank c then (.between, toks)
  else if c == ';' then (.inComment, toks)
  else if c == ',' then (.between, .comma :: toks)
  else if c == singleQuote then (.afterQuote, toks)
  else if c == doubleQuote then (.inText [], toks)
  else (.inWord [c], toks)

/-- One character of a line; the tokens so far are held newest first. -/
def lexChar (st : LexMode × List Token) (c : Char) : Option (LexMode × List Token) :=
  match st.1 with
  | .inComment => some st
  | .between => some (lexBetween st.2 c)
  | .inWord rev =>
    if isSeparator c then some (lexBetween (.word rev.reverse :: st.2) c) else some (.inWord (c :: rev), st.2)
  | .afterQuote => (asciiByte c).map fun b => (.afterQuotedChar b, st.2)
  | .afterQuotedChar b => if c == singleQuote then some (.between, .quoted b :: st.2) else none
  | .inText rev =>
    if c == doubleQuote then some (.between, .text rev.reverse :: st.2)
    else (asciiByte c).map fun b => (.inText (b :: rev), st.2)

/-- The end of a line: an open quote is an error. -/
def lexEnd (st : LexMode × List Token) : Option (List Token) :=
  match st.1 with
  | .between => some st.2.reverse
  | .inComment => some st.2.reverse
  | .inWord rev => some (Token.word rev.reverse :: st.2).reverse
  | .afterQuote => none
  | .afterQuotedChar _ => none
  | .inText _ => none

/-- The tokens of a line, in order. -/
def tokens (line : List Char) : Option (List Token) :=
  (line.foldlM lexChar (.between, [])).bind lexEnd

/-- The value of a digit in a base of at most 16; letters of either case (log 12). -/
def digitValue (c : Char) : Option Nat :=
  if '0' ≤ c ∧ c ≤ '9' then some (c.toNat - 48)
  else if 'a' ≤ c ∧ c ≤ 'f' then some (c.toNat - 87)
  else if 'A' ≤ c ∧ c ≤ 'F' then some (c.toNat - 55)
  else none

/-- The value of a non-empty run of digits of a base. -/
def digitsValue (base : Nat) (cs : List Char) : Option Nat :=
  if cs.isEmpty then none
  else cs.foldlM (fun acc c => (digitValue c).bind fun d => if d < base then some (acc * base + d) else none) 0

/-- A number: hexadecimal with `0x`, else decimal (R44). -/
def numberValue : List Char → Option Nat
  | '0' :: 'x' :: cs => digitsValue 16 cs
  | cs => digitsValue 10 cs

/-- A byte operand: a number `0..255` or a quoted character (R44). -/
def operandValue : Token → Option Byte
  | .word cs => (numberValue cs).bind fun n => if operandInRange n then some (BitVec.ofNat 8 n) else none
  | .quoted b => some b
  | .text _ => none
  | .comma => none

/-- One operand and nothing after it. -/
def oneOperand (args : List Token) (f : Byte → Line) : Option Line :=
  match args with
  | [t] => (operandValue t).map f
  | _ => none

/-- No operand. -/
def noOperand (args : List Token) (l : Line) : Option Line := if args.isEmpty then some l else none

/-- Byte operands with commas between them (R47). -/
def operandList : List Token → Option (List Byte)
  | [] => none
  | [t] => (operandValue t).map fun b => [b]
  | t :: .comma :: rest => (operandValue t).bind fun b => (operandList rest).map fun bs => b :: bs
  | _ :: _ :: _ => none

/-- The operands of `CRC32`: none, a string, or byte operands (R47). -/
def crc32Operands : List Token → Option (List Byte)
  | [] => some []
  | [.text bs] => some bs
  | toks => operandList toks

/-- The operand of `.word`: a number of 16 bits (D17). -/
def rawWord : List Token → Option Line
  | [.word cs] => (numberValue cs).bind fun n => if n < 65536 then some (.raw (BitVec.ofNat 16 n)) else none
  | _ => none

/-- A line from its mnemonic and the tokens after it: the mnemonics in capitals (R44 to R48). -/
def parseLine (mnemonic : List Char) (args : List Token) : Option Line :=
  if mnemonic = "GENF".toList then oneOperand args fun n => .command (.genf n)
  else if mnemonic = "GENR".toList then oneOperand args fun n => .command (.genr n)
  else if mnemonic = "LUTF".toList then oneOperand args fun i => .command (.lutf i)
  else if mnemonic = "LUTR".toList then oneOperand args fun i => .command (.lutr i)
  else if mnemonic = "INIT".toList then noOperand args (.command .init)
  else if mnemonic = "UPD".toList then oneOperand args fun b => .command (.upd b)
  else if mnemonic = "FIN".toList then noOperand args (.command .fin)
  else if mnemonic = "BUILDF".toList then noOperand args .buildf
  else if mnemonic = "BUILDR".toList then noOperand args .buildr
  else if mnemonic = "DUMPF".toList then noOperand args .dumpf
  else if mnemonic = "DUMPR".toList then noOperand args .dumpr
  else if mnemonic = "CRC32".toList then (crc32Operands args).map .crc32
  else if mnemonic = ".word".toList then rawWord args
  else none

/-- A line from its tokens. -/
def parseTokens : List Token → Option Line
  | [] => some .blank
  | .word m :: args => parseLine m args
  | .quoted _ :: _ => none
  | .text _ :: _ => none
  | .comma :: _ => none

/-- The command words of one source line; none where it is no line of R44 to R48. -/
def assembleLine (line : List Char) : Option (List CmdWord) :=
  ((tokens line).bind parseTokens).map Line.words

/-- A text cut into its lines: one command per line (R44). -/
def splitLines : List Char → List (List Char)
  | [] => [[]]
  | c :: cs =>
    if c = Char.ofNat 10 then [] :: splitLines cs
    else
      match splitLines cs with
      | [] => [[c]]
      | l :: ls => (c :: l) :: ls

/-- The command words of a source text, in order; none where a line is no line of R44 to R48. -/
def assemble (source : List Char) : Option (List CmdWord) :=
  ((splitLines source).mapM assembleLine).map List.flatten

/-- A hexadecimal digit, in capitals. -/
def hexDigit (d : BitVec 4) : Char :=
  if d.toNat < 10 then Char.ofNat (48 + d.toNat) else Char.ofNat (55 + d.toNat)

/-- A byte operand as R44 writes it in hexadecimal. -/
def operandText (b : Byte) : List Char :=
  ['0', 'x', hexDigit (b.extractLsb' 4 4), hexDigit (b.extractLsb' 0 4)]

/-- The mnemonic of a command (R41, R44). -/
def mnemonicText : Instr → List Char
  | .genf _ => "GENF".toList
  | .genr _ => "GENR".toList
  | .lutf _ => "LUTF".toList
  | .lutr _ => "LUTR".toList
  | .init => "INIT".toList
  | .upd _ => "UPD".toList
  | .fin => "FIN".toList

/-- The source line of a command (R44), its operand in hexadecimal. -/
def instrText (i : Instr) : List Char :=
  match i.operand with
  | some b => mnemonicText i ++ ' ' :: operandText b
  | none => mnemonicText i

end Sys2Proof.Machine
end

