-- ==== Sys2Proof/Machine/Block.lean ====
section
/-! DEFINITION. The block as 10_state.md R19 and 30_encoding.md R38 see it: a state of one field, and a step from that state and
one command word to the next state and one response. -/

namespace Sys2Proof.Machine

/-- The effect of a command on the block: the block after it and its response (R41). -/
def Block.execute (blk : Block) (i : Instr) : Block × Response :=
  match i with
  | .genf n => applyGenf n blk
  | .genr n => applyGenr n blk
  | .lutf k => applyLutf k blk
  | .lutr k => applyLutr k blk
  | .init => applyInit blk
  | .upd b => applyUpd b blk
  | .fin => applyFin blk

/-- `step : (REG, cmd) -> (REG', response)`, total over all 65536 words (R19, R38): R41 selects the command, and R42 answers every
word that selects none. -/
def Block.step (blk : Block) (w : CmdWord) : Block × Response :=
  match decode w with
  | .ok i => blk.execute i
  | .error _ => blk.rejectWord

/-- A list of command words, one after another: the block after the last, and the responses in order. Nothing but the block is
carried from one command to the next (R19). -/
def Block.run (blk : Block) : List CmdWord → Block × List Response
  | [] => (blk, [])
  | w :: ws => (((blk.step w).1.run ws).1, (blk.step w).2 :: ((blk.step w).1.run ws).2)

end Sys2Proof.Machine
end

