-- ==== Sys2Proof/Machine/FixCrc.lean ====
section
/-! DEFINITION. The host procedure FIXCRC as a function on a buffer (43_fixup_solver_host.md R85 to R92). It is host software,
no command and no part of the block (00_scope.md R2, R3); the buffer is a value the running procedure owns (20_memory.md
R22, R30; log 8). -/

namespace Sys2Proof.Machine

/-- The result of the host procedure: a closed type with exactly these members (R112). -/
inductive FixResult where
  /-- The procedure ran; it returns the normalised offset `p` (R92; log 10). -/
  | success (p : Nat)
  /-- `InvalidLength`: rejected before any mutation, the buffer untouched (R87, R101, R102). -/
  | invalidLength
  deriving DecidableEq, Repr

/-- `p = fix_pos mod len`, the floored modulo, in unbounded integers (R7, R86; log 9). -/
def normalise (len : Nat) (fixPos : Int) : Nat := (fixPos % (len : Int)).toNat

/-- The source's formula `((fix_pos % length) + length) % length` for a reading `rem` of its `%` (R86). -/
def doubleModulo (rem : Int → Int → Int) (len : Nat) (fixPos : Int) : Int :=
  rem (rem fixPos len + len) len

/-- The validation of R87: `len < 4` first, then the window; the normalised offset where both pass. -/
def validate (len : Nat) (fixPos : Int) : Option Nat :=
  if len < Config.patchw then none
  else if normalise len fixPos + Config.patchw > len then none
  else some (normalise len fixPos)

/-- `MemWrite(addr, 1, v)`: a write of one byte of the host's buffer (R8). -/
def memWrite1 (buf : List Byte) (addr : Nat) (v : Byte) : List Byte := buf.set addr v

/-- Byte writes at ascending addresses from `addr` (R8, R27). -/
def memWriteBytes (buf : List Byte) (addr : Nat) : List Byte → List Byte
  | [] => buf
  | v :: vs => memWriteBytes (memWrite1 buf addr v) (addr + 1) vs

/-- `MemWrite(addr, 4, v)`: the four bytes `LE4(v)`, lowest first, at ascending addresses (R8, R89, R91). -/
def memWrite4 (buf : List Byte) (addr : Nat) (v : Word) : List Byte := memWriteBytes buf addr (le4 v)

/-- `revstep(s, b) = (s << 8) ^ RTAB[hi8(s)] ^ zext32(b)`, the index taken before the shift (R90). -/
def revstep (s : Word) (b : Byte) : Word := ((s <<< 8) ^^^ rtab (hi8 s)) ^^^ zext32 b

/-- Step 1a: the register over the prefix `buf[0..p)`, without the final XOR (R88). -/
def forwardPass (buf : List Byte) (p : Nat) : Word := rawcrc (buf.take p)

/-- The reverse steps over a byte sequence, from its last byte down to its first (R25, R90). -/
def revFrom (t : Word) (bytes : List Byte) : Word := bytes.foldr (fun b u => revstep u b) t

/-- Step 2: the backward pass from `target_crc ^ 0xFFFFFFFF` over `buf[p..len)`, last byte first, `p` included (R90). -/
def backwardPass (buf : List Byte) (p : Nat) (target : Word) : Word :=
  revFrom (target ^^^ Config.xorout) (buf.drop p)

/-- Steps 1 to 3 at a validated offset: placeholder, backward pass, final write (R88 to R91). -/
def patch (buf : List Byte) (p : Nat) (target : Word) : List Byte :=
  let withPlaceholder := memWrite4 buf p (forwardPass buf p)
  memWrite4 withPlaceholder p (backwardPass withPlaceholder p target)

/-- `FIXCRC(buf, target_crc, fix_pos)`: its result and the buffer it leaves (R85, R92, R126). -/
def fixcrc (buf : List Byte) (target : Word) (fixPos : Int) : FixResult × List Byte :=
  match validate buf.length fixPos with
  | none => (.invalidLength, buf)
  | some p => (.success p, patch buf p target)

end Sys2Proof.Machine
end

