-- ==== Sys2Proof/Machine/Run.lean ====
section
/-! DEFINITION. Runs of the block and what is observed of one (70_reset_and_hazards.md R126), and one transaction on the host
port (30_encoding.md R35). -/

namespace Sys2Proof.Machine

/-- `k` steps, stopping at a fault or a refusal. -/
def stepMany : Nat → State → Host.Outcome State Fault Refusal
  | 0, s => .next s
  | k + 1, s =>
    match step s with
    | .next s' => stepMany k s'
    | .fault r => .fault r
    | .refused r => .refused r

/-- A run from a state over a list of command words: as many steps as there are commands, each taking one (R126). -/
def runCommands (ws : List CmdWord) (s : State) : Host.Outcome State Fault Refusal :=
  stepMany ws.length { s with commands := ws }

/-- The observation of a run: the list of responses, in order, and the final `REG` (R126). -/
structure Observation where
  responses : List Response
  finalReg  : Word
  deriving DecidableEq, Repr

/-- The observation of the run of a list of command words from reset (R126). -/
def observe (ws : List CmdWord) : Option Observation :=
  match runCommands ws State.reset with
  | .next s => some ⟨s.responses, s.reg⟩
  | .fault _ => none
  | .refused _ => none

/-- One transaction: the host presents a word and receives its response, before anything else is taken (R35). None where the
block did not go on, which no word brings about (R100). -/
def issue (w : CmdWord) (s : State) : Option (Response × State) :=
  match step (s.present w) with
  | .next s' => s'.responses.getLast?.map fun r => (r, s')
  | .fault _ => none
  | .refused _ => none

/-- Transactions one after another, their responses disregarded. -/
def issueAll : List CmdWord → State → Option State
  | [], s => some s
  | w :: ws, s => (issue w s).bind fun rs => issueAll ws rs.2

/-- One transaction whose response must be `DATA(v)`: the value and the block after it. -/
def issueForData (w : CmdWord) (s : State) : Option (Word × State) :=
  match issue w s with
  | some (.data v, s') => some (v, s')
  | _ => none

end Sys2Proof.Machine
end

