-- ==== Sys2Proof/Machine/HostProcedures.lean ====
section
/-! DEFINITION. The two host procedures carried out with the block's commands (30_encoding.md R47; 42_forward_datapath.md R75,
R78; 43_fixup_solver_host.md R97). The host does the shifts, XORs, byte splitting and buffer writes; the block does the table
look-ups and the forward recurrence. A procedure is none where the block does not answer as R38 says, which it always does
(log 11). -/

namespace Sys2Proof.Machine

/-- The commands that send a message: `INIT`, then `UPD` with each byte in index order (R75, R120). -/
def messageCommands (buf : List Byte) : List CmdWord :=
  encode .init :: buf.map fun b => encode (.upd b)

/-- The whole-buffer checksum: the message, then `FIN` (R47, R75). -/
def crc32OnBlock (buf : List Byte) (s : State) : Option (Word × State) :=
  (issueAll (messageCommands buf) s).bind (issueForData (encode .fin))

/-- The raw register after a message: the response of `FIN` XORed with `0xFFFFFFFF` by the host (R78, R97). -/
def rawcrcOnBlock (buf : List Byte) (s : State) : Option (Word × State) :=
  (crc32OnBlock buf s).map fun vs => (vs.1 ^^^ Config.xorout, vs.2)

/-- The backward pass: for each byte, the last first, `LUTR hi8(t)` responding `DATA(w)`, then
`t = (t << 8) ^ w ^ zext32(byte)` by the host (R97). The argument lists the bytes in the order they are taken. -/
def backwardOnBlock : List Byte → Word → State → Option (Word × State)
  | [], t, s => some (t, s)
  | b :: bs, t, s =>
    (issueForData (encode (.lutr (hi8 t))) s).bind fun ws =>
      backwardOnBlock bs (((t <<< 8) ^^^ ws.1) ^^^ zext32 b) ws.2

/-- FIXCRC at a validated offset, with the block doing the look-ups (R97): the patched buffer and the block after it. -/
def patchOnBlock (buf : List Byte) (p : Nat) (target : Word) (s : State) : Option (List Byte × State) :=
  (rawcrcOnBlock (buf.take p) s).bind fun fwd =>
    let withPlaceholder := memWrite4 buf p fwd.1
    (backwardOnBlock (withPlaceholder.drop p).reverse (target ^^^ Config.xorout) fwd.2).map fun bwd =>
      (memWrite4 withPlaceholder p bwd.1, bwd.2)

/-- FIXCRC run by a host on the block (R97): its result, the buffer and the block after it. A rejected call issues no command
(R102, V39). -/
def fixcrcOnBlock (buf : List Byte) (target : Word) (fixPos : Int) (s : State) :
    Option (FixResult × List Byte × State) :=
  match validate buf.length fixPos with
  | none => some (.invalidLength, buf, s)
  | some p => (patchOnBlock buf p target s).map fun bs => (.success p, bs.1, bs.2)

/-- Transactions one after another, each with a `DATA` response: the values, in order, and the block after them. -/
def issueAllForData : List CmdWord → State → Option (List Word × State)
  | [], s => some ([], s)
  | w :: ws, s =>
    (issueForData w s).bind fun v => (issueAllForData ws v.2).map fun vs => (v.1 :: vs.1, vs.2)

/-- The reverse step by a host that looks words up in its own copy of the reverse table (R97, R122). -/
def revstepFromCopy (table : List Word) (t : Word) (b : Byte) : Word :=
  ((t <<< 8) ^^^ table.getD (hi8 t).toNat 0#32) ^^^ zext32 b

/-- FIXCRC run by a host that first fetches the whole reverse table with `DUMPR` and then does the look-ups itself, the other
way R97 allows. R97 says only "once": that the table is fetched anew in every accepted call, after validation and before the
forward pass, is the model's choice (log 16, DESIGN CHOICE). -/
def fixcrcWithTableCopy (buf : List Byte) (target : Word) (fixPos : Int) (s : State) :
    Option (FixResult × List Byte × State) :=
  match validate buf.length fixPos with
  | none => some (.invalidLength, buf, s)
  | some p =>
    (issueAllForData Line.dumpr.words s).bind fun copy =>
      (rawcrcOnBlock (buf.take p) copy.2).map fun fwd =>
        let withPlaceholder := memWrite4 buf p fwd.1
        let t := (withPlaceholder.drop p).foldr (fun b u => revstepFromCopy copy.1 u b) (target ^^^ Config.xorout)
        (.success p, memWrite4 withPlaceholder p t, fwd.2)

end Sys2Proof.Machine
end

