-- ==== Sys2Proof/Safety.lean ====
section
/-! DEFINITION. What counts as a safe run and a well-behaved host, in the terms the statements use (70_reset_and_hazards.md
R117, R119, R120; 30_encoding.md R35; 10_state.md R10). -/

namespace Sys2Proof.Machine

/-- The commands that write `REG`: `INIT` and `UPD`, and nothing else (R10). -/
def writesReg (w : CmdWord) : Bool :=
  match decode w with
  | .ok .init => true
  | .ok (.upd _) => true
  | .ok (.genf _) => false
  | .ok (.genr _) => false
  | .ok (.lutf _) => false
  | .ok (.lutr _) => false
  | .ok .fin => false
  | .error _ => false

/-- The host's rule for one message (R117, R119, R120): among the words, those that write `REG` are the `INIT` of the message
and one `UPD` for each of its bytes in index order. `GENF`, `GENR`, `LUTF`, `LUTR`, `FIN` and illegal words may stand
anywhere between (R75, R119). -/
def CarriesMessage (buf : List Byte) (ws : List CmdWord) : Prop :=
  ws.filter writesReg = messageCommands buf

/-- The register after a list of command words, by the rules of the commands that write it: `INIT` loads the initial value,
`UPD` makes a forward step, everything else leaves it (R10, R71, R72). -/
def regAfter (r : Word) : List CmdWord → Word
  | [] => r
  | w :: ws =>
    match decode w with
    | .ok .init => regAfter Config.initv ws
    | .ok (.upd b) => regAfter (crcstep r b) ws
    | .ok (.genf _) => regAfter r ws
    | .ok (.genr _) => regAfter r ws
    | .ok (.lutf _) => regAfter r ws
    | .ok (.lutr _) => regAfter r ws
    | .ok .fin => regAfter r ws
    | .error _ => regAfter r ws

/-- A run is sound so far: what has been taken of the commands presented at `s0` has been answered, one response each, no
response already given has changed, and `REG` is what those commands make of the register at `s0` (R29, R35). -/
def RunInv (s0 s : State) : Prop :=
  ∃ taken : List CmdWord, s0.commands = taken ++ s.commands ∧
    s0.responses <+: s.responses ∧
    s.responses.length = s0.responses.length + taken.length ∧
    s.reg = regAfter s0.reg taken

/-- `c 0, ..., c 8` are the nine values of R50 for the polynomial `p` and the byte value `n`. -/
def IsForwardSequence (p : Word) (n : Byte) (c : Nat → Word) : Prop :=
  c 0 = n.setWidth 32 ∧
    ∀ k < 8, c (k + 1) = if (c k).getLsbD 0 then (c k >>> 1) ^^^ p else c k >>> 1

/-- `c 0, ..., c 8` are the nine values of R51 for the polynomial `p` and the byte value `n`. -/
def IsReverseSequence (p : Word) (n : Byte) (c : Nat → Word) : Prop :=
  c 0 = n.setWidth 32 <<< 24 ∧
    ∀ k < 8, c (k + 1) = if (c k).getLsbD 31 then ((c k ^^^ p) <<< 1) ||| 1#32 else c k <<< 1

/-- The three grounds of R42 on which a word is illegal, over the bits of the word. -/
abbrev IllegalWord (w : CmdWord) : Prop :=
  (w.extractLsb' 12 4 = 0x0#4 ∨ 8 ≤ (w.extractLsb' 12 4).toNat) ∨
    w.extractLsb' 8 4 ≠ 0#4 ∨
    ((w.extractLsb' 12 4 = 0x5#4 ∨ w.extractLsb' 12 4 = 0x7#4) ∧ w.extractLsb' 0 8 ≠ 0#8)

/-- Two buffers of one length that agree outside the patch window `[p, p+4)`. -/
def AgreeOutsideWindow (p : Nat) (buf buf' : List Byte) : Prop :=
  buf'.length = buf.length ∧ ∀ i : Nat, i < p ∨ p + 4 ≤ i → buf'[i]? = buf[i]?

end Sys2Proof.Machine
end

