-- ==== Sys2Proof/Certificates/Slice0/Obligations.lean ====
section
/-! DEFINITION. The statements for the provers, in the order of the spec's files. Words, tables and polynomials are written as
the spec writes them wherever a number decides. Throughout, `commands` and `responses` are the two sides of the host port, whose
place in State is the model's choice (log 1): "responds r" of the spec is r added at the end of `responses`. -/

open Sys2Proof Sys2Proof.Machine

/-! ### Table generator (40_table_generator.md) -/

/-- R50: `genf(p, n)` is the ninth value of the eight test-and-shift iterations, for every polynomial; the worked sequence for
`n = 1`. -/
def Obligations.GenfIsEightForwardIterations : Prop :=
  (∀ (p : Word) (n : Byte), ∃ c : Nat → Word, IsForwardSequence p n c ∧ genf p n = c 8) ∧
  (∀ c : Nat → Word, IsForwardSequence 0xEDB88320#32 1#8 c →
    (List.range 9).map c =
      [0x00000001#32, 0xEDB88320#32, 0x76DC4190#32, 0x3B6E20C8#32, 0x1DB71064#32, 0x0EDB8832#32, 0x076DC419#32,
        0xEE0E612C#32, 0x77073096#32])

/-- R51: `genr(p, n)` is the ninth value of the eight iterations, XOR before shift; the equivalent form of the taken branch; the
worked sequence for `n = 1`; and that the other order gives another table. -/
def Obligations.GenrIsEightReverseIterations : Prop :=
  (∀ (p : Word) (n : Byte), ∃ c : Nat → Word, IsReverseSequence p n c ∧ genr p n = c 8) ∧
  (∀ p c : Word, ((c ^^^ p) <<< 1) ||| 1#32 = (c <<< 1) ^^^ ((p <<< 1) ||| 1#32)) ∧
  (∀ c : Nat → Word, IsReverseSequence 0xEDB88320#32 1#8 c →
    (List.range 9).map c =
      [0x01000000#32, 0x02000000#32, 0x04000000#32, 0x08000000#32, 0x10000000#32, 0x20000000#32, 0x40000000#32,
        0x80000000#32, 0xDB710641#32]) ∧
  (∀ d : Nat → Word, d 0 = 0x01000000#32 →
    (∀ k < 8, d (k + 1) = if (d k).getLsbD 31 then ((d k <<< 1) ^^^ 0xEDB88320#32) ||| 1#32 else d k <<< 1) →
    d 8 = 0xEDB88321#32 ∧ d 8 ≠ genr 0xEDB88320#32 1#8)

/-- R52: `GENF n`, its word, its effect from every state (so also its frame: only the response is added), its corner cases. -/
def Obligations.GenfCompletes : Prop :=
  (∀ n : Byte, decode (0x1000#16 ||| n.setWidth 16) = .ok (.genf n)) ∧
  (∀ (n : Byte) (s : State),
    exec (.genf n) s = .next { s with responses := s.responses ++ [.data (genf 0xEDB88320#32 n)] }) ∧
  genf 0xEDB88320#32 0x00#8 = 0x00000000#32 ∧ genf 0xEDB88320#32 0x80#8 = 0xEDB88320#32 ∧
  genf 0xEDB88320#32 0xFF#8 = 0x2D02EF8D#32 ∧ genf 0xEDB88320#32 0x01#8 = 0x77073096#32

/-- R53: `GENR n`, its word, its effect from every state (so also its frame), its corner cases. -/
def Obligations.GenrCompletes : Prop :=
  (∀ n : Byte, decode (0x2000#16 ||| n.setWidth 16) = .ok (.genr n)) ∧
  (∀ (n : Byte) (s : State),
    exec (.genr n) s = .next { s with responses := s.responses ++ [.data (genr 0xEDB88320#32 n)] }) ∧
  genr 0xEDB88320#32 0x00#8 = 0x00000000#32 ∧ genr 0xEDB88320#32 0x80#8 = 0x6567CB95#32 ∧
  genr 0xEDB88320#32 0xFF#8 = 0x0F6A70D9#32 ∧ genr 0xEDB88320#32 0x01#8 = 0xDB710641#32

/-- R56, table consistency: one reverse step undoes one forward step, for every register and every byte, over the generator's
tables and over the block's. -/
def Obligations.ReverseStepUndoesForwardStep : Prop :=
  ∀ (r : Word) (b : Byte),
    (∀ s : Word, s = (r >>> 8) ^^^ genf 0xEDB88320#32 (lo8 (r ^^^ zext32 b)) →
      ((s <<< 8) ^^^ genr 0xEDB88320#32 (hi8 s)) ^^^ zext32 b = r) ∧
    revstep (crcstep r b) b = r

/-- R57 (the spec marks it derived): both generators are linear over XOR for every polynomial, and the eight entries that
determine each table at `POLY`. -/
def Obligations.GeneratorsAreLinearOverXor : Prop :=
  (∀ (p : Word) (a b : Byte),
    genf p (a ^^^ b) = genf p a ^^^ genf p b ∧ genr p (a ^^^ b) = genr p a ^^^ genr p b ∧
    genf p 0#8 = 0#32 ∧ genr p 0#8 = 0#32) ∧
  ([0x01#8, 0x02#8, 0x04#8, 0x08#8, 0x10#8, 0x20#8, 0x40#8, 0x80#8].map (genf 0xEDB88320#32) =
    [0x77073096#32, 0xEE0E612C#32, 0x076DC419#32, 0x0EDB8832#32, 0x1DB71064#32, 0x3B6E20C8#32, 0x76DC4190#32,
      0xEDB88320#32]) ∧
  ([0x01#8, 0x02#8, 0x04#8, 0x08#8, 0x10#8, 0x20#8, 0x40#8, 0x80#8].map (genr 0xEDB88320#32) =
    [0xDB710641#32, 0x6D930AC3#32, 0xDB261586#32, 0x6D3D2D4D#32, 0xDA7A5A9A#32, 0x6F85B375#32, 0xDF0B66EA#32,
      0x6567CB95#32])

/-- R58 (the spec marks it derived): the top bytes of the forward table are a permutation, and the reverse table is the forward
table's words rotated into place. -/
def Obligations.ReverseTableMirrorsForwardTable : Prop :=
  (∀ i j : Byte, hi8 (ftab i) = hi8 (ftab j) → i = j) ∧
  (∀ t : Byte, ∃ i : Byte, hi8 (ftab i) = t) ∧
  (∀ i : Byte, rtab (hi8 (ftab i)) = (ftab i <<< 8) ^^^ zext32 i)

/-! ### Table ROM (41_table_rom.md) -/

/-- R60: the forward-table ROM holds the generator's outputs. -/
def Obligations.ForwardRomHoldsGeneratorOutputs : Prop :=
  ∀ i : Byte, ftab i = genf 0xEDB88320#32 i

/-- R61: the reverse-table ROM holds the generator's outputs. -/
def Obligations.ReverseRomHoldsGeneratorOutputs : Prop :=
  ∀ i : Byte, rtab i = genr 0xEDB88320#32 i

/-- R62: `LUTF i`, its word, its effect from every state (so also its frame), its corner cases. -/
def Obligations.LutfCompletes : Prop :=
  (∀ i : Byte, decode (0x3000#16 ||| i.setWidth 16) = .ok (.lutf i)) ∧
  (∀ (i : Byte) (s : State), exec (.lutf i) s = .next { s with responses := s.responses ++ [.data (ftab i)] }) ∧
  ftab 0x00#8 = 0x00000000#32 ∧ ftab 0x80#8 = 0xEDB88320#32 ∧ ftab 0xFF#8 = 0x2D02EF8D#32 ∧
  ftab 0x01#8 = 0x77073096#32

/-- R63: `LUTR i`, its word, its effect from every state (so also its frame), its corner cases. -/
def Obligations.LutrCompletes : Prop :=
  (∀ i : Byte, decode (0x4000#16 ||| i.setWidth 16) = .ok (.lutr i)) ∧
  (∀ (i : Byte) (s : State), exec (.lutr i) s = .next { s with responses := s.responses ++ [.data (rtab i)] }) ∧
  rtab 0x00#8 = 0x00000000#32 ∧ rtab 0x80#8 = 0x6567CB95#32 ∧ rtab 0xFF#8 = 0x0F6A70D9#32 ∧
  rtab 0x01#8 = 0xDB710641#32

/-- R65 (the spec marks it derived): reading the ROM and evaluating the generator leave the same state, for both tables. -/
def Obligations.RomReadsEqualGeneratorReads : Prop :=
  ∀ (i : Byte) (s : State), exec (.lutf i) s = exec (.genf i) s ∧ exec (.lutr i) s = exec (.genr i) s

/-- R64: `LUTF`, `LUTR` and `UPD` as the very first command after reset see the full table contents. -/
def Obligations.TablesAreFullFromReset : Prop :=
  ∀ i : Byte,
    step (State.reset.present (0x3000#16 ||| i.setWidth 16)) =
      .next ⟨⟨0xFFFFFFFF#32⟩, [], [.data (genf 0xEDB88320#32 i)]⟩ ∧
    step (State.reset.present (0x4000#16 ||| i.setWidth 16)) =
      .next ⟨⟨0xFFFFFFFF#32⟩, [], [.data (genr 0xEDB88320#32 i)]⟩ ∧
    step (State.reset.present (0x6000#16 ||| i.setWidth 16)) =
      .next ⟨⟨0x00FFFFFF#32 ^^^ genf 0xEDB88320#32 (0xFF#8 ^^^ i)⟩, [], [.none]⟩

/-! ### Forward datapath (42_forward_datapath.md) -/

/-- R70: the forward step: index from the low byte, logical shift by 8 with a zero top byte, all 32 bits of the table word. -/
def Obligations.ForwardStepIsShiftAndTableWord : Prop :=
  ∀ (r : Word) (b : Byte),
    crcstep r b = (r >>> 8) ^^^ ftab ((r ^^^ b.setWidth 32).extractLsb' 0 8) ∧
    (r ^^^ b.setWidth 32).extractLsb' 0 8 = r.extractLsb' 0 8 ^^^ b ∧
    (r >>> 8).extractLsb' 24 8 = 0#8

/-- R71: `INIT`, its word, its effect from every state (so also its frame), its corner cases. -/
def Obligations.InitCompletes : Prop :=
  decode 0x5000#16 = .ok .init ∧
  (∀ x : Byte, x ≠ 0#8 → ∃ c, decode (0x5000#16 ||| x.setWidth 16) = .error c) ∧
  (∀ s : State, exec .init s = .next { s with reg := 0xFFFFFFFF#32, responses := s.responses ++ [.none] }) ∧
  (∀ s t u : State, exec .init s = .next t → exec .init t = .next u → u.reg = t.reg) ∧
  (∀ t : State, exec .init State.reset = .next t → t.reg = State.reset.reg)

/-- R72: `UPD b`, its word, its effect from every state (so also its frame), its corner cases. -/
def Obligations.UpdCompletes : Prop :=
  (∀ b : Byte, decode (0x6000#16 ||| b.setWidth 16) = .ok (.upd b)) ∧
  (∀ (b : Byte) (s : State),
    exec (.upd b) s = .next { s with reg := crcstep s.reg b, responses := s.responses ++ [.none] }) ∧
  (∀ (r : Word) (b : Byte), hi8 (crcstep r b) = hi8 (ftab (lo8 r ^^^ b))) ∧
  (∀ r : Word, crcstep r (lo8 r) = r >>> 8) ∧ ftab 0#8 = 0#32 ∧
  crcstep 0x00000000#32 0x00#8 = 0x00000000#32 ∧ crcstep 0xFFFFFFFF#32 0xFF#8 = 0x00FFFFFF#32 ∧
  crcstep 0xFFFFFFFF#32 0x00#8 = 0x2DFD1072#32 ∧ crcstep 0xFFFFFFFF#32 0x31#8 = 0x7C231048#32

/-- R73: `FIN`, its word, its effect from every state (so also its frame), its corner cases. -/
def Obligations.FinCompletes : Prop :=
  decode 0x7000#16 = .ok .fin ∧
  (∀ x : Byte, x ≠ 0#8 → ∃ c, decode (0x7000#16 ||| x.setWidth 16) = .error c) ∧
  (∀ s : State, exec .fin s = .next { s with responses := s.responses ++ [.data (s.reg ^^^ 0xFFFFFFFF#32)] }) ∧
  (∀ r : Word, r ^^^ 0xFFFFFFFF#32 = ~~~r) ∧
  (∀ s : State, runCommands [0x7000#16, 0x7000#16] s =
    .next ⟨s.toBlock, [], s.responses ++ [.data (~~~s.reg), .data (~~~s.reg)]⟩) ∧
  (∀ s : State, runCommands [0x5000#16, 0x7000#16] s =
    .next ⟨⟨0xFFFFFFFF#32⟩, [], s.responses ++ [.none, .data 0#32]⟩) ∧
  exec .fin ⟨⟨0x340BC6D9#32⟩, [], []⟩ = .next ⟨⟨0x340BC6D9#32⟩, [], [.data 0xCBF43926#32]⟩

/-- R74: the whole-buffer function is the recurrence from `0xFFFFFFFF` over the bytes in index order, then the final XOR. -/
def Obligations.Crc32IsRecurrenceWithFinalXor : Prop :=
  rawcrc [] = 0xFFFFFFFF#32 ∧
  (∀ (buf : List Byte) (b : Byte), rawcrc (buf ++ [b]) = crcstep (rawcrc buf) b) ∧
  (∀ buf : List Byte, crc32 buf = rawcrc buf ^^^ 0xFFFFFFFF#32)

/-- R76, and the source's second known vector (V2). -/
def Obligations.Crc32KnownVectors : Prop :=
  crc32 [] = 0x00000000#32 ∧
  crc32 [0x31#8, 0x32#8, 0x33#8, 0x34#8, 0x35#8, 0x36#8, 0x37#8, 0x38#8, 0x39#8] = 0xCBF43926#32

/-- R75 (the spec marks it derived): from any state, words that carry a message, harmless words interleaved anywhere, leave
`REG` at `rawcrc` of the message, and a `FIN` then responds with its checksum. -/
def Obligations.MessageCommandsComputeCrc32 : Prop :=
  ∀ (buf : List Byte) (ws : List CmdWord) (s : State), CarriesMessage buf ws →
    ∃ t : State, runCommands ws s = .next t ∧ t.reg = rawcrc buf ∧ t.commands = [] ∧
      t.responses.length = s.responses.length + ws.length ∧
      runCommands (ws ++ [0x7000#16]) s = .next { t with responses := t.responses ++ [.data (crc32 buf)] }

/-- R78 (the spec marks it derived): the host recovers `REG` from the response of `FIN`. -/
def Obligations.FinResponseRevealsRegister : Prop :=
  ∀ s : State, ∃ v : Word,
    exec .fin s = .next { s with responses := s.responses ++ [.data v] } ∧ v ^^^ 0xFFFFFFFF#32 = s.reg

/-- R79 (a), (b) (the spec marks them derived): the forward step is linear over XOR, and a byte acts through the low byte. -/
def Obligations.ForwardStepIsLinearOverXor : Prop :=
  (∀ (r1 r2 : Word) (b1 b2 : Byte),
    crcstep (r1 ^^^ r2) (b1 ^^^ b2) = crcstep r1 b1 ^^^ crcstep r2 b2) ∧
  crcstep 0#32 0#8 = 0#32 ∧
  (∀ (r : Word) (b : Byte), crcstep r b = crcstep (r ^^^ zext32 b) 0#8)

/-- R79 (c) (the spec marks it derived): for a fixed byte the forward step is a bijection and the reverse step its inverse, on
both sides. -/
def Obligations.ForwardStepIsBijective : Prop :=
  ∀ b : Byte, (∀ r : Word, revstep (crcstep r b) b = r) ∧ (∀ s : Word, crcstep (revstep s b) b = s)

/-- R79 (d) (the spec marks it derived): a register sent its own four bytes, lowest first, goes to zero. -/
def Obligations.RegisterCancelsItsOwnBytes : Prop :=
  ∀ r : Word, crcFrom r (le4 r) = 0#32 ∧
    le4 r = [r.extractLsb' 0 8, r.extractLsb' 8 8, r.extractLsb' 16 8, r.extractLsb' 24 8]

/-- R23 and V28 (derived): a message followed by its own checksum, lowest byte first, leaves a constant register. -/
def Obligations.AppendedChecksumLeavesResidue : Prop :=
  ∀ buf : List Byte, rawcrc (buf ++ le4 (crc32 buf)) = 0xDEBB20E3#32 ∧
    crc32 (buf ++ le4 (crc32 buf)) = 0x2144DF1C#32

/-! ### Command interface and encoding (30_encoding.md) -/

/-- R41: the seven rows, and that a word is the command of a row exactly when `(cmd & mask) == match`; the rows are disjoint,
and a word of no row is rejected. -/
def Obligations.OpcodeMapDecidesDecoding : Prop :=
  opcodeMap = [⟨0x1000#16, 0xFF00#16⟩, ⟨0x2000#16, 0xFF00#16⟩, ⟨0x3000#16, 0xFF00#16⟩, ⟨0x4000#16, 0xFF00#16⟩,
    ⟨0x5000#16, 0xFFFF#16⟩, ⟨0x6000#16, 0xFF00#16⟩, ⟨0x7000#16, 0xFFFF#16⟩] ∧
  (∀ (w : CmdWord) (i : Instr), decode w = .ok i → rowOf i ∈ opcodeMap ∧ (rowOf i).accepts w) ∧
  (∀ (w : CmdWord) (r : OpcodeRow), r ∈ opcodeMap → r.accepts w → ∃ i, decode w = .ok i ∧ rowOf i = r) ∧
  (∀ (w : CmdWord) (r r' : OpcodeRow), r ∈ opcodeMap → r' ∈ opcodeMap → r.accepts w → r'.accepts w → r = r')

/-- R42: the illegal words are those of the three grounds, 64254 of them; an illegal word is answered `ILLEGAL`, `REG` is as
before, and the next command runs as if it had not been issued. -/
def Obligations.IllegalWordsAreAnsweredAndHarmless : Prop :=
  (∀ w : CmdWord, (∃ c, decode w = .error c) ↔ IllegalWord w) ∧
  IllegalWord 0x0000#16 ∧ IllegalWord 0xFFFF#16 ∧
  (∃ legal : List CmdWord, legal.Nodup ∧ (∀ w : CmdWord, w ∈ legal ↔ ¬IllegalWord w) ∧
    legal.length = 5 * 256 + 2 ∧ 65536 - legal.length = 64254) ∧
  (∀ (w : CmdWord) (rest : List CmdWord) (s : State), IllegalWord w → s.commands = w :: rest →
    step s = .next { s with commands := rest, responses := s.responses ++ [.illegal] }) ∧
  (∀ (w v : CmdWord) (rest : List CmdWord) (s : State), IllegalWord w → s.commands = w :: v :: rest →
    ∃ (t u : State) (r : Response), step { s with commands := v :: rest } = .next t ∧ stepMany 2 s = .next u ∧
      u.reg = t.reg ∧ u.commands = t.commands ∧ t.responses = s.responses ++ [r] ∧
      u.responses = s.responses ++ [.illegal, r])

/-- R44 and R49 (examples): words written out from the spec decode as it says. -/
def Obligations.WorkedWordsDecode : Prop :=
  decode 0x1080#16 = .ok (.genf 0x80#8) ∧ decode 0x2001#16 = .ok (.genr 1#8) ∧ decode 0x30FF#16 = .ok (.lutf 255#8) ∧
  decode 0x40DB#16 = .ok (.lutr 0xDB#8) ∧ decode 0x5000#16 = .ok .init ∧ decode 0x6031#16 = .ok (.upd 0x31#8) ∧
  decode 0x7000#16 = .ok .fin ∧ decode 0x10FF#16 = .ok (.genf 255#8) ∧
  decode 0x6131#16 = .error .reservedNonzero ∧ decode 0x5001#16 = .error .operandNonzero ∧
  decode 0x0000#16 = .error .undefinedOp ∧ decode 0x8000#16 = .error .undefinedOp

/-- Decoding and encoding agree: the decoder gives back every command with every operand, and every word the decoder accepts is
the word of its command (R36, R39, R40, R41, R44). -/
def Obligations.DecodeEncodeRoundTrip : Prop :=
  (∀ i : Instr, i.wf → decode (encode i) = .ok i) ∧
  (∀ (w : CmdWord) (i : Instr), decode w = .ok i → encode i = w ∧ i.wf)

/-- R38: one total function of `REG` and the command word gives the next `REG` and the response, for every word and whatever
else the state holds: by the command's rule where R41 selects one, by R42 everywhere else. -/
def Obligations.StepIsAFunctionOfRegAndCommand : Prop :=
  ∃ f : Word → CmdWord → Word × Response,
    (∀ (w : CmdWord) (rest : List CmdWord) (s : State), s.commands = w :: rest →
      step s = .next ⟨⟨(f s.reg w).1⟩, rest, s.responses ++ [(f s.reg w).2]⟩) ∧
    (∀ (r : Word) (n : Byte),
      f r (0x1000#16 ||| n.setWidth 16) = (r, .data (genf 0xEDB88320#32 n)) ∧
      f r (0x2000#16 ||| n.setWidth 16) = (r, .data (genr 0xEDB88320#32 n)) ∧
      f r (0x3000#16 ||| n.setWidth 16) = (r, .data (ftab n)) ∧
      f r (0x4000#16 ||| n.setWidth 16) = (r, .data (rtab n)) ∧
      f r 0x5000#16 = (0xFFFFFFFF#32, .none) ∧
      f r (0x6000#16 ||| n.setWidth 16) = (crcstep r n, .none) ∧
      f r 0x7000#16 = (r, .data (r ^^^ 0xFFFFFFFF#32))) ∧
    (∀ (r : Word) (w : CmdWord), IllegalWord w → f r w = (r, .illegal))

/-- A step runs the command its oldest word decodes to, in the state from which that word has been taken (R35, R41). -/
def Obligations.StepRunsDecodedCommand : Prop :=
  ∀ (w : CmdWord) (rest : List CmdWord) (i : Instr) (s : State), s.commands = w :: rest → decode w = .ok i →
    step s = exec i { s with commands := rest }

/-- The decoder accepts exactly the words whose fields pass the three checks of R36, R39 and R41, and encodings of commands do. -/
def Obligations.DecoderAcceptsExactlyWellFormedFields : Prop :=
  (∀ w : CmdWord, (∃ i, decode w = .ok i) ↔ (fieldsOf w).wf = true) ∧
  (∀ i : Instr, fieldsOf (encode i) = ⟨opcodeOf i, 0#4, argOf i⟩)

/-- From R44: every command is read from its assembler line as its word, with the operand in hexadecimal, in decimal or (an ASCII
code) as a quoted character; the rule's own examples and a comment; and a number above 255 is no operand. That a semicolon, a
single quote or a line feed between quotes is a character like any other is the model's choice (log 12, DESIGN CHOICE): R44
does not settle it. -/
def Obligations.AssemblerReadsEveryCommand : Prop :=
  (∀ i : Instr, assembleLine (instrText i) = some [encode i]) ∧
  (∀ (i : Instr) (b : Byte), i.operand = some b →
    assembleLine (mnemonicText i ++ ' ' :: Nat.toDigits 10 b.toNat) = some [encode i]) ∧
  (∀ (i : Instr) (b : Byte), i.operand = some b → b.toNat < 128 →
    assembleLine (mnemonicText i ++ [' ', singleQuote, Char.ofNat b.toNat, singleQuote]) = some [encode i]) ∧
  assembleLine "GENF 0x80".toList = some [0x1080#16] ∧ assembleLine "GENR 1".toList = some [0x2001#16] ∧
  assembleLine "LUTF 255".toList = some [0x30FF#16] ∧ assembleLine "LUTR 0xDB".toList = some [0x40DB#16] ∧
  assembleLine "INIT".toList = some [0x5000#16] ∧ assembleLine "UPD '1'".toList = some [0x6031#16] ∧
  assembleLine "UPD 0x31 ; the same".toList = some [0x6031#16] ∧ assembleLine "FIN".toList = some [0x7000#16] ∧
  assembleLine "UPD 256".toList = none

/-- R45, R46, R48: the four table pseudo-instructions expand to 256 commands in order; running them responds the 256 table
words in order and leaves `REG`; the dumps respond as the builds do. -/
def Obligations.TablePseudoInstructionsListTheTables : Prop :=
  Line.buildf.words = (List.range 256).map (fun n => 0x1000#16 ||| BitVec.ofNat 16 n) ∧
  Line.buildr.words = (List.range 256).map (fun n => 0x2000#16 ||| BitVec.ofNat 16 n) ∧
  Line.dumpf.words = (List.range 256).map (fun n => 0x3000#16 ||| BitVec.ofNat 16 n) ∧
  Line.dumpr.words = (List.range 256).map (fun n => 0x4000#16 ||| BitVec.ofNat 16 n) ∧
  ∀ s : State,
    runCommands Line.buildf.words s =
      .next ⟨s.toBlock, [], s.responses ++ (List.range 256).map fun n => .data (genf 0xEDB88320#32 (BitVec.ofNat 8 n))⟩ ∧
    runCommands Line.buildr.words s =
      .next ⟨s.toBlock, [], s.responses ++ (List.range 256).map fun n => .data (genr 0xEDB88320#32 (BitVec.ofNat 8 n))⟩ ∧
    runCommands Line.dumpf.words s = runCommands Line.buildf.words s ∧
    runCommands Line.dumpr.words s = runCommands Line.buildr.words s

/-- R47: the pseudo-instruction `CRC32` expands to `INIT`, an `UPD` for each byte in order and `FIN`, `k + 2` commands; the last
response is the checksum of its bytes; with no bytes it is `INIT`, `FIN` and the response is zero. -/
def Obligations.Crc32PseudoInstructionRespondsChecksum : Prop :=
  (∀ (bytes : List Byte) (s : State),
    (Line.crc32 bytes).words = 0x5000#16 :: bytes.map (fun b => 0x6000#16 ||| b.setWidth 16) ++ [0x7000#16] ∧
    (Line.crc32 bytes).words.length = bytes.length + 2 ∧
    runCommands (Line.crc32 bytes).words s =
      .next ⟨⟨rawcrc bytes⟩, [],
        s.responses ++ (.none :: List.replicate bytes.length .none ++ [.data (crc32 bytes)])⟩) ∧
  (Line.crc32 []).words = [0x5000#16, 0x7000#16] ∧ crc32 [] = 0x00000000#32

/-! ### State, reset and runs (10_state.md, 60_exceptions.md, 70_reset_and_hazards.md) -/

/-- R10: a step changes `REG` only where the word taken is an `INIT` or a `UPD`. -/
def Obligations.OnlyInitAndUpdWriteReg : Prop :=
  ∀ s t : State, step s = .next t → t.reg ≠ s.reg →
    ∃ (w : CmdWord) (rest : List CmdWord), s.commands = w :: rest ∧ (w = 0x5000#16 ∨ w &&& 0xFF00#16 = 0x6000#16)

/-- R10: no response but that of `FIN` depends on `REG`, and no next `REG` but that of `UPD`, other than by leaving it. -/
def Obligations.OnlyUpdAndFinReadReg : Prop :=
  ∀ (w : CmdWord) (rest : List CmdWord) (rs : List Response) (r1 r2 : Word) (t1 t2 : State),
    step ⟨⟨r1⟩, w :: rest, rs⟩ = .next t1 → step ⟨⟨r2⟩, w :: rest, rs⟩ = .next t2 →
    (w ≠ 0x7000#16 → t1.responses = t2.responses) ∧
    (w &&& 0xFF00#16 ≠ 0x6000#16 → (t1.reg = t2.reg ∨ (t1.reg = r1 ∧ t2.reg = r2)))

/-- The frame of every command: the pending commands stay, earlier responses stay and exactly one is added, and `REG` stays
unless the command is `INIT` or `UPD` (R10, R35; the block has no other register and no memory it writes, R18). -/
def Obligations.CommandsChangeOnlyWhatTheyName : Prop :=
  ∀ (i : Instr) (s t : State), exec i s = .next t →
    t.commands = s.commands ∧ (∃ r : Response, r ≠ .illegal ∧ t.responses = s.responses ++ [r]) ∧
    (i ≠ .init → (∀ b : Byte, i ≠ .upd b) → t.reg = s.reg)

/-- R100: every command completes normally, for every operand and every state. -/
def Obligations.EveryCommandCompletes : Prop :=
  ∀ (i : Instr) (s : State), ∃ t : State, exec i s = .next t

/-- R115: the reset state, and the tables in it. -/
def Obligations.ResetStateHoldsInitialRegister : Prop :=
  State.reset.reg = 0xFFFFFFFF#32 ∧ (∀ i : Byte, ftab i = genf 0xEDB88320#32 i ∧ rtab i = genr 0xEDB88320#32 i)

/-- The model's choice for a step with no command presented (log 2, from R116 "Between two commands nothing changes"). -/
def Obligations.NothingChangesBetweenCommands : Prop :=
  ∀ s : State, s.commands = [] → step s = .next s

/-- R117: a message sent without `INIT` continues the one before it, and `FIN` responds with the checksum of the
concatenation. -/
def Obligations.MissingInitConcatenatesMessages : Prop :=
  ∀ (m1 m2 : List Byte) (s : State), s.reg = rawcrc m1 →
    ∃ t : State, runCommands ((m2.map fun b => encode (.upd b)) ++ [encode .fin]) s = .next t ∧
      t.reg = rawcrc (m1 ++ m2) ∧ t.responses.getLast? = some (.data (crc32 (m1 ++ m2)))

/-- Every step keeps a run sound: each command taken has been answered once, no response given is changed, and `REG` is what
the commands taken make of it (R10, R29, R35). -/
def Obligations.StepKeepsRunInvariant : Prop :=
  ∀ s0 s t : State, RunInv s0 s → step s = .next t → RunInv s0 t

/-- The invariant holds at the start of every run from reset: whatever words the host presents to it, the reset state is the start
of a run with `REG = 0xFFFFFFFF` (R115), those words pending and no response given (the model's own fields, log 1). -/
def Obligations.RunInvariantHoldsAtReset : Prop :=
  ∀ ws : List CmdWord, RunInv ⟨⟨0xFFFFFFFF#32⟩, ws, []⟩ { State.reset with commands := ws }

/-- R125, R126: a run over any list of words ends, takes them all, gives one response each after those already given, and has
one observation, whose final `REG` the words decide. -/
def Obligations.RunAnswersEveryCommandOnce : Prop :=
  (∀ (ws : List CmdWord) (s : State), ∃ t : State, runCommands ws s = .next t ∧ t.commands = [] ∧
    s.responses <+: t.responses ∧ t.responses.length = s.responses.length + ws.length ∧ t.reg = regAfter s.reg ws) ∧
  (∀ ws : List CmdWord, ∃ o : Observation, observe ws = some o ∧ o.responses.length = ws.length ∧
    o.finalReg = regAfter 0xFFFFFFFF#32 ws)

/-- R19 (the spec marks it derived): `REG` is the whole state of the block; the tables are constant functions with the
generator's values; the block's step takes that state and one command word to the next state and one response, by the command's
rule where R41 selects one and by R42 everywhere else; a step of the machine is that step with its word taken from the port and
its response put there (log 1); and a run of any words is the block's own run, so nothing but `REG` is carried from one command
to the next. -/
def Obligations.MachineRunsBlockStepAlone : Prop :=
  (∀ a b : Block, a.reg = b.reg → a = b) ∧
  (∀ i : Byte, ftab i = genf 0xEDB88320#32 i ∧ rtab i = genr 0xEDB88320#32 i) ∧
  (∀ (r : Word) (n : Byte),
    Block.step ⟨r⟩ (0x1000#16 ||| n.setWidth 16) = (⟨r⟩, .data (genf 0xEDB88320#32 n)) ∧
    Block.step ⟨r⟩ (0x2000#16 ||| n.setWidth 16) = (⟨r⟩, .data (genr 0xEDB88320#32 n)) ∧
    Block.step ⟨r⟩ (0x3000#16 ||| n.setWidth 16) = (⟨r⟩, .data (ftab n)) ∧
    Block.step ⟨r⟩ (0x4000#16 ||| n.setWidth 16) = (⟨r⟩, .data (rtab n)) ∧
    Block.step ⟨r⟩ 0x5000#16 = (⟨0xFFFFFFFF#32⟩, .none) ∧
    Block.step ⟨r⟩ (0x6000#16 ||| n.setWidth 16) = (⟨crcstep r n⟩, .none) ∧
    Block.step ⟨r⟩ 0x7000#16 = (⟨r⟩, .data (r ^^^ 0xFFFFFFFF#32))) ∧
  (∀ (r : Word) (w : CmdWord), IllegalWord w → Block.step ⟨r⟩ w = (⟨r⟩, .illegal)) ∧
  (∀ (w : CmdWord) (rest : List CmdWord) (s : State), s.commands = w :: rest →
    step s = .next ⟨(s.toBlock.step w).1, rest, s.responses ++ [(s.toBlock.step w).2]⟩) ∧
  (∀ (ws : List CmdWord) (s : State),
    runCommands ws s = .next ⟨(s.toBlock.run ws).1, [], s.responses ++ (s.toBlock.run ws).2⟩)

/-! ### Host procedure FIXCRC (43_fixup_solver_host.md) -/

/-- R86: the normalised offset is in range and congruent to `fix_pos`, and the source's double-modulo formula gives it whether
`%` truncates or floors; the rule's examples. -/
def Obligations.DoubleModuloNormalisesOffset : Prop :=
  (∀ (len : Nat) (fixPos : Int), 0 < len →
    normalise len fixPos < len ∧ (len : Int) ∣ (normalise len fixPos : Int) - fixPos ∧
    doubleModulo Int.tmod len fixPos = normalise len fixPos ∧ doubleModulo Int.fmod len fixPos = normalise len fixPos) ∧
  [16, -4, 36, -24, 0, 20, -1, -20].map (normalise 20) = [16, 16, 16, 16, 0, 0, 19, 0]

/-- R101: FIXCRC reports `InvalidLength` exactly for a buffer shorter than 4 bytes or a window past its end, and then leaves the
buffer untouched. -/
def Obligations.FixcrcRejectsExactlyInvalidLengths : Prop :=
  ∀ (buf : List Byte) (target : Word) (fixPos : Int),
    ((fixcrc buf target fixPos).1 = .invalidLength ↔
      buf.length < 4 ∨ (4 ≤ buf.length ∧ fixPos % (buf.length : Int) + 4 > (buf.length : Int))) ∧
    ((fixcrc buf target fixPos).1 = .invalidLength → (fixcrc buf target fixPos).2 = buf)

/-- R23, R89, R91: a four-byte write puts `v[8k+7 : 8k]` at `p + k`, and leaves the length and every other byte. -/
def Obligations.FourByteWriteIsLittleEndian : Prop :=
  ∀ (buf : List Byte) (p : Nat) (v : Word), p + 4 ≤ buf.length →
    (∀ k : Nat, k < 4 → (memWrite4 buf p v)[p + k]? = some (v.extractLsb' (8 * k) 8)) ∧
    AgreeOutsideWindow p buf (memWrite4 buf p v)

/-- R88, R89, R90, R91: FIXCRC written out by index. `c` is the forward pass over `buf[0..p)`, `held` the buffer with the
placeholder `LE4(c p)` in the window, `d` the backward pass over it from the last byte down to index `p`; the buffer left
has `LE4(d p)` in the window. -/
def Obligations.FixcrcFollowsItsThreeSteps : Prop :=
  ∀ (buf held : List Byte) (target : Word) (fixPos : Int) (p : Nat) (c d : Nat → Word),
    validate buf.length fixPos = some p →
    c 0 = 0xFFFFFFFF#32 → (∀ (i : Nat) (b : Byte), i < p → buf[i]? = some b → c (i + 1) = crcstep (c i) b) →
    held = buf.take p ++ [(c p).extractLsb' 0 8, (c p).extractLsb' 8 8, (c p).extractLsb' 16 8, (c p).extractLsb' 24 8] ++
      buf.drop (p + 4) →
    d buf.length = target ^^^ 0xFFFFFFFF#32 →
    (∀ (i : Nat) (b : Byte), p ≤ i → held[i]? = some b →
      d i = ((d (i + 1) <<< 8) ^^^ rtab ((d (i + 1)).extractLsb' 24 8)) ^^^ b.setWidth 32) →
    fixcrc buf target fixPos = (.success p,
      buf.take p ++ [(d p).extractLsb' 0 8, (d p).extractLsb' 8 8, (d p).extractLsb' 16 8, (d p).extractLsb' 24 8] ++
        buf.drop (p + 4))

/-- R93: after a successful FIXCRC the checksum of the whole buffer is the target, and only the window may differ; it succeeds
for every buffer, target and offset whose window fits. -/
def Obligations.FixcrcReachesTargetInsideWindow : Prop :=
  ∀ (buf : List Byte) (target : Word) (fixPos : Int), 4 ≤ buf.length →
    fixPos % (buf.length : Int) + 4 ≤ (buf.length : Int) →
    ∃ (p : Nat) (patched : List Byte), fixcrc buf target fixPos = (.success p, patched) ∧
      (p : Int) = fixPos % (buf.length : Int) ∧ crc32 patched = target ∧ AgreeOutsideWindow p buf patched

/-- R94: FIXCRC is idempotent, depends on `fix_pos` only through the normalised offset, and on the buffer only outside the
window. -/
def Obligations.FixcrcIsIdempotentAndIgnoresOldWindow : Prop :=
  (∀ (buf patched : List Byte) (target : Word) (fixPos : Int) (p : Nat),
    fixcrc buf target fixPos = (.success p, patched) → fixcrc patched target fixPos = (.success p, patched)) ∧
  (∀ (buf : List Byte) (target : Word) (fixPos fixPos' : Int),
    normalise buf.length fixPos = normalise buf.length fixPos' → fixcrc buf target fixPos = fixcrc buf target fixPos') ∧
  (∀ (buf : List Byte) (target : Word), buf.length = 20 → fixcrc buf target (-4) = fixcrc buf target 16) ∧
  (∀ (buf buf' : List Byte) (target : Word) (fixPos : Int) (p : Nat), validate buf.length fixPos = some p →
    AgreeOutsideWindow p buf buf' → fixcrc buf' target fixPos = fixcrc buf target fixPos)

/-- R95 (the spec marks it derived): the patch value is the only four bytes with which the buffer reaches the target. -/
def Obligations.PatchValueIsUnique : Prop :=
  ∀ (before after : List Byte) (target x : Word),
    crc32 (before ++ le4 x ++ after) = target ↔
      x = backwardPass (before ++ le4 (rawcrc before) ++ after) before.length target

/-- V3: two buffers that differ in exactly one byte have different checksums; so flipping a byte outside the window and fixing
the buffer back to its old checksum keeps the flipped byte and changes the window. -/
def Obligations.FlippedByteForcesAnotherWindow : Prop :=
  (∀ (before after : List Byte) (b c : Byte), b ≠ c → crc32 (before ++ b :: after) ≠ crc32 (before ++ c :: after)) ∧
  (∀ (buf patched : List Byte) (j p : Nat) (v old : Byte) (fixPos : Int),
    buf[j]? = some old → v ≠ old → (j < p ∨ p + 4 ≤ j) →
    fixcrc (buf.set j v) (crc32 buf) fixPos = (.success p, patched) →
    crc32 patched = crc32 buf ∧ patched[j]? = some v ∧ (patched.drop p).take 4 ≠ (buf.drop p).take 4)

/-- R97: FIXCRC run with the block's commands gives what the function gives, from any state of the block, in `p + 2` commands
for the forward pass and `len - p` for the backward pass, and takes nothing else of what is pending. -/
def Obligations.FixcrcOnBlockRefinesFixcrc : Prop :=
  ∀ (buf : List Byte) (target : Word) (fixPos : Int) (s : State), ∃ t : State,
    fixcrcOnBlock buf target fixPos s = some ((fixcrc buf target fixPos).1, (fixcrc buf target fixPos).2, t) ∧
    t.commands = s.commands ∧ s.responses <+: t.responses ∧
    (∀ p : Nat, (fixcrc buf target fixPos).1 = .success p →
      t.responses.length = s.responses.length + (p + 2) + (buf.length - p) ∧ t.reg = rawcrc (buf.take p)) ∧
    ((fixcrc buf target fixPos).1 = .invalidLength → t = s)

/-- R97, the other way it allows: FIXCRC run by a host that first fetches the reverse table with `DUMPR` gives the same, in 256
commands for the table and `p + 2` for the forward pass. That every accepted call fetches the table, after validation and before
the forward pass, so that the 256 count in each, is the model's choice (log 16, DESIGN CHOICE). -/
def Obligations.FixcrcWithTableCopyRefinesFixcrc : Prop :=
  ∀ (buf : List Byte) (target : Word) (fixPos : Int) (s : State), ∃ t : State,
    fixcrcWithTableCopy buf target fixPos s =
      some ((fixcrc buf target fixPos).1, (fixcrc buf target fixPos).2, t) ∧
    t.commands = s.commands ∧ s.responses <+: t.responses ∧
    (∀ p : Nat, (fixcrc buf target fixPos).1 = .success p →
      t.responses.length = s.responses.length + 256 + (p + 2) ∧ t.reg = rawcrc (buf.take p)) ∧
    ((fixcrc buf target fixPos).1 = .invalidLength → t = s)
end

