-- ==== Sys2Proof/Laws/Decode.lean ====
section
/-! SUPPORT. The fields of an assembled word are the fields it was assembled from, and the checks of WellFormed. -/

namespace Sys2Proof.Laws

/-- The three fields of `(op << 12) | arg` (R36, R44). -/
theorem fieldsOf_assembled (op : BitVec 4) (arg : Byte) :
    fieldsOf ((op.setWidth 16 <<< 12) ||| arg.setWidth 16) = ⟨op, 0#4, arg⟩ := by
  simp only [fieldsOf, Fields.mk.injEq]
  refine ⟨?_, ?_, ?_⟩
  · ext i hi
    simp [show 12 + i < 16 by omega, BitVec.getLsbD_of_ge arg (12 + i) (by omega), BitVec.getLsbD_eq_getElem hi]
  · ext i hi
    simp [show 8 + i < 12 by omega]
  · ext i hi
    simp [show i < 12 by omega, show i < 16 by omega, BitVec.getLsbD_eq_getElem hi]

/-- A word is its three fields. -/
theorem word_of_fields (w : CmdWord) (h : (fieldsOf w).rsv = 0#4) :
    ((fieldsOf w).op.setWidth 16 <<< 12) ||| (fieldsOf w).arg.setWidth 16 = w := by
  simp only [fieldsOf] at h ⊢
  ext i hi
  by_cases h8 : i < 8
  · simp [h8, show i < 12 by omega, BitVec.getLsbD_eq_getElem hi]
  · by_cases h12 : i < 12
    · have := congrArg (fun v : BitVec 4 => v.getLsbD (i - 8)) h
      simp [show i - 8 < 4 by omega, show 8 + (i - 8) = i by omega, BitVec.getLsbD_eq_getElem hi] at this
      simp [h8, h12, this]
    · simp [h8, h12, show i - 12 < 4 by omega, show 12 + (i - 12) = i by omega, BitVec.getLsbD_eq_getElem hi]

/-- The fields of the word of a command (R36, R39). -/
theorem fieldsOf_encode (i : Instr) : fieldsOf (encode i) = ⟨opcodeOf i, 0#4, argOf i⟩ :=
  fieldsOf_assembled (opcodeOf i) (argOf i)

/-- Every command is well formed: every byte value is a legal operand (R40). -/
theorem instr_wf (i : Instr) : i.wf = true := by
  cases i <;> simp [Instr.wf, Instr.operand, operandInRange] <;> exact BitVec.isLt _

/-- The fields of a command pass the three checks (R41, R42). -/
theorem fields_wf_of_instr (i : Instr) : (Fields.mk (opcodeOf i) 0#4 (argOf i)).wf = true := by
  cases i <;> rfl

end Sys2Proof.Laws
end

