-- ==== Sys2Proof/Laws/FixCrc.lean ====
section
/-! SUPPORT. What the writes to the host's buffer can do. -/

namespace Sys2Proof.Machine

/-- A run of byte writes keeps the length of the buffer. -/
@[simp] theorem memWriteBytes_length (vs : List Byte) (buf : List Byte) (addr : Nat) :
    (memWriteBytes buf addr vs).length = buf.length := by
  induction vs generalizing buf addr with
  | nil => rfl
  | cons v vs ih => simp [memWriteBytes, ih, memWrite1]

/-- A run of byte writes inside the buffer replaces that run of bytes and leaves the rest. -/
theorem memWriteBytes_eq (vs before old after : List Byte) (h : old.length = vs.length) :
    memWriteBytes (before ++ old ++ after) before.length vs = before ++ vs ++ after := by
  induction vs generalizing before old with
  | nil => simp_all [memWriteBytes]
  | cons v vs ih =>
    obtain - | ⟨o, old⟩ := old
    · simp at h
    · have hset : memWrite1 (before ++ (o :: old) ++ after) before.length v = (before ++ [v]) ++ old ++ after := by
        simp [memWrite1]
      have := ih (before ++ [v]) old (by simpa using h)
      simp only [memWriteBytes, hset]
      simpa using this

/-- The four-byte write keeps the length of the buffer. -/
@[simp] theorem memWrite4_length (buf : List Byte) (addr : Nat) (v : Word) :
    (memWrite4 buf addr v).length = buf.length := memWriteBytes_length _ _ _

/-- The four-byte write inside the buffer replaces the window and leaves the rest (R89, R91). -/
theorem memWrite4_eq (before old after : List Byte) (v : Word) (h : old.length = 4) :
    memWrite4 (before ++ old ++ after) before.length v = before ++ le4 v ++ after :=
  memWriteBytes_eq _ _ _ _ (by simpa [le4] using h)

/-- A buffer cut at a window that fits. -/
theorem buffer_eq_window (buf : List Byte) (p : Nat) :
    buf = buf.take p ++ (buf.drop p).take 4 ++ buf.drop (p + 4) := by
  rw [List.append_assoc, ← List.drop_drop, List.take_append_drop, List.take_append_drop]

/-- The four-byte write at an offset whose window fits. -/
theorem memWrite4_at {buf : List Byte} {p : Nat} (v : Word) (h : p + 4 ≤ buf.length) :
    memWrite4 buf p v = buf.take p ++ le4 v ++ buf.drop (p + 4) := by
  have hp : (buf.take p).length = p := by simp; omega
  have hw : ((buf.drop p).take 4).length = 4 := by simp; omega
  have e := memWrite4_eq (buf.take p) ((buf.drop p).take 4) (buf.drop (p + 4)) v hw
  rw [← buffer_eq_window, hp] at e
  exact e

/-- Everything a passed validation says (R86, R87). -/
theorem validate_some {len : Nat} {fixPos : Int} {p : Nat} (h : validate len fixPos = some p) :
    4 ≤ len ∧ p = normalise len fixPos ∧ p + 4 ≤ len := by
  unfold validate Config.patchw at h
  split at h
  · cases h
  · split at h
    · cases h
    · cases h; exact ⟨by omega, rfl, by omega⟩

/-- A buffer of at least four bytes whose window fits passes the validation. -/
theorem validate_of_fits {len : Nat} {fixPos : Int} (h4 : 4 ≤ len) (h : normalise len fixPos + 4 ≤ len) :
    validate len fixPos = some (normalise len fixPos) := by
  unfold validate Config.patchw
  rw [if_neg (by omega), if_neg (by omega)]

/-- A buffer shorter than four bytes, and one whose window does not fit, is rejected. -/
theorem validate_of_overrun {len : Nat} {fixPos : Int} (h : len < 4 ∨ len < normalise len fixPos + 4) :
    validate len fixPos = none := by
  unfold validate Config.patchw
  split
  · rfl
  · exact if_pos (by omega)

end Sys2Proof.Machine
end

