-- ==== Sys2Proof/Laws/Operands.lean ====
section
/-! SUPPORT. What the bit-field helpers do under XOR, shift and zero extension. -/

namespace Sys2Proof.Machine

theorem zext32_xor (a b : Byte) : zext32 (a ^^^ b) = zext32 a ^^^ zext32 b := by
  simp only [zext32]; ext i; simp

@[simp] theorem zext32_zero : zext32 0#8 = 0#32 := rfl

theorem lo8_xor (a b : Word) : lo8 (a ^^^ b) = lo8 a ^^^ lo8 b := by
  simp only [lo8]; ext i; simp

theorem hi8_xor (a b : Word) : hi8 (a ^^^ b) = hi8 a ^^^ hi8 b := by
  simp only [hi8]; ext i; simp

@[simp] theorem lo8_zext32 (b : Byte) : lo8 (zext32 b) = b := by
  simp only [lo8, zext32]; ext i hi; simp [hi]; omega

@[simp] theorem hi8_zext32 (b : Byte) : hi8 (zext32 b) = 0#8 := by
  simp only [hi8, zext32]; ext i hi; simp; intro; exact BitVec.getLsbD_of_ge _ _ (by omega)

/-- The top byte of a word shifted right by eight is zero: the shift is logical (R70). -/
@[simp] theorem hi8_shiftRight8 (r : Word) : hi8 (r >>> 8) = 0#8 := by
  simp only [hi8]; ext i hi; simp; exact BitVec.getLsbD_of_ge _ _ (by omega)

/-- The index of a forward step is the low byte of the register XORed with the message byte (R70, R72). -/
theorem stepIndex_eq (r : Word) (b : Byte) : stepIndex r b = lo8 r ^^^ b := by
  rw [stepIndex, lo8_xor, lo8_zext32]

/-- A word shifted right by eight and back has lost its low byte. -/
theorem shiftRight8_shiftLeft8 (r : Word) : (r >>> 8) <<< 8 = r ^^^ zext32 (lo8 r) := by
  simp only [lo8, zext32]
  ext i hi
  by_cases h : i < 8
  · simp [h, BitVec.getLsbD_eq_getElem hi]
  · simp [h, show 8 + (i - 8) = i by omega, BitVec.getLsbD_eq_getElem hi]

/-- A word shifted left by eight and back has lost its high byte. -/
theorem shiftLeft8_shiftRight8 (s : Word) : (s <<< 8) >>> 8 = s ^^^ (zext32 (hi8 s) <<< 24) := by
  simp only [hi8, zext32]
  ext i hi
  by_cases h : i < 24
  · simp [h, show 8 + i < 32 by omega]
  · simp [h, show ¬ 8 + i < 32 by omega, show i - 24 < 8 by omega, show 24 + (i - 24) = i by omega,
      BitVec.getLsbD_eq_getElem hi]

end Sys2Proof.Machine
end

