-- ==== Sys2Proof/Laws/Generator.lean ====
section
/-! SUPPORT. One iteration of either generator is linear over XOR, and iterating keeps that (the ground of R57). -/

namespace Sys2Proof.Machine

/-- A value XORed twice drops out. -/
theorem xor_cancel_left {n : Nat} (a b : BitVec n) : a ^^^ (a ^^^ b) = b := by
  rw [← BitVec.xor_assoc]; simp

/-- Setting bit 0 of a value just shifted left is an XOR with 1. -/
theorem shiftLeft_or_one (x : Word) : (x <<< 1) ||| 1#32 = (x <<< 1) ^^^ 1#32 := by
  ext i hi
  rcases Nat.eq_zero_or_pos i with h | h
  · subst h; simp
  · simp [show i ≠ 0 by omega]

theorem genfStep_xor (p a b : Word) : genfStep p (a ^^^ b) = genfStep p a ^^^ genfStep p b := by
  simp only [genfStep, BitVec.getLsbD_xor, BitVec.ushiftRight_xor_distrib]
  generalize a >>> 1 = x
  generalize b >>> 1 = y
  have h : x ^^^ p ^^^ (y ^^^ p) = p ^^^ (p ^^^ (x ^^^ y)) := by ac_rfl
  cases a.getLsbD 0 <;> cases b.getLsbD 0
  · rfl
  · show x ^^^ y ^^^ p = x ^^^ (y ^^^ p); ac_rfl
  · show x ^^^ y ^^^ p = x ^^^ p ^^^ y; ac_rfl
  · show x ^^^ y = x ^^^ p ^^^ (y ^^^ p); rw [h, xor_cancel_left]

theorem genrStep_xor (p a b : Word) : genrStep p (a ^^^ b) = genrStep p a ^^^ genrStep p b := by
  simp only [genrStep, BitVec.getLsbD_xor, shiftLeft_or_one]
  simp only [BitVec.shiftLeft_xor_distrib]
  generalize a <<< 1 = x
  generalize b <<< 1 = y
  generalize p <<< 1 = q
  have h : x ^^^ q ^^^ 1#32 ^^^ (y ^^^ q ^^^ 1#32) = (q ^^^ 1#32) ^^^ ((q ^^^ 1#32) ^^^ (x ^^^ y)) := by ac_rfl
  cases a.getLsbD 31 <;> cases b.getLsbD 31
  · rfl
  · show x ^^^ y ^^^ q ^^^ 1#32 = x ^^^ (y ^^^ q ^^^ 1#32); ac_rfl
  · show x ^^^ y ^^^ q ^^^ 1#32 = x ^^^ q ^^^ 1#32 ^^^ y; ac_rfl
  · show x ^^^ y = x ^^^ q ^^^ 1#32 ^^^ (y ^^^ q ^^^ 1#32); rw [h, xor_cancel_left]

/-- Iterating a linear step is linear. -/
theorem iterate_xor (f : Word → Word) (hf : ∀ a b, f (a ^^^ b) = f a ^^^ f b) (k : Nat) (a b : Word) :
    iterate f k (a ^^^ b) = iterate f k a ^^^ iterate f k b := by
  induction k generalizing a b with
  | zero => rfl
  | succ k ih => simp [iterate, hf, ih]

/-- A sequence made by a step holds the step's iterates. -/
theorem iterate_eq_sequence (f : Word → Word) (k : Nat) (x : Word) (c : Nat → Word) (h0 : c 0 = x)
    (h : ∀ j < k, c (j + 1) = f (c j)) : iterate f k x = c k := by
  induction k generalizing x c with
  | zero => simp [iterate, h0]
  | succ k ih =>
    rw [iterate]
    exact ih (f x) (fun j => c (j + 1)) (by simp [h 0 (by omega), h0]) fun j hj => h (j + 1) (by omega)

end Sys2Proof.Machine
end

