-- ==== Sys2Proof/Laws/PerInstr.lean ====
section
/-! SUPPORT. The family `Layout`: for each command, its word's fields are the operation code of the opcode map, a zero reserved
field and its operand, they pass the checks of WellFormed, and so does the command. -/

namespace Sys2Proof.Laws.Layout

/-- What the family says of one command (R36, R39, R40, R41). -/
def Statement (i : Instr) : Prop :=
  i.wf = true ∧ fieldsOf (encode i) = ⟨opcodeOf i, 0#4, argOf i⟩ ∧ (fieldsOf (encode i)).wf = true

/-- From the three general lemmas. -/
theorem of_instr (i : Instr) : Statement i :=
  ⟨instr_wf i, fieldsOf_encode i, by rw [fieldsOf_encode]; exact fields_wf_of_instr i⟩

theorem genf (n : Byte) : Statement (.genf n) := of_instr _
theorem genr (n : Byte) : Statement (.genr n) := of_instr _
theorem lutf (i : Byte) : Statement (.lutf i) := of_instr _
theorem lutr (i : Byte) : Statement (.lutr i) := of_instr _
theorem init : Statement .init := of_instr _
theorem upd (b : Byte) : Statement (.upd b) := of_instr _
theorem fin : Statement .fin := of_instr _

end Sys2Proof.Laws.Layout
end

