-- ==== Sys2Proof/Laws/State.lean ====
section
/-! SUPPORT. One lemma per field and update of Block and State, and what taking a command word can do. -/

namespace Sys2Proof.Machine

@[simp] theorem Block.writeReg_reg (blk : Block) (v : Word) : (blk.writeReg v).reg = v := rfl
@[simp] theorem Block.respond_fst (blk : Block) (r : Response) : (blk.respond r).1 = blk := rfl
@[simp] theorem Block.respond_snd (blk : Block) (r : Response) : (blk.respond r).2 = r := rfl
@[simp] theorem Block.rejectWord_fst (blk : Block) : blk.rejectWord.1 = blk := rfl
@[simp] theorem Block.rejectWord_snd (blk : Block) : blk.rejectWord.2 = .illegal := rfl

@[simp] theorem State.complete_toBlock (s : State) (x : Block × Response) : (s.complete x).toBlock = x.1 := rfl
@[simp] theorem State.complete_commands (s : State) (x : Block × Response) : (s.complete x).commands = s.commands := rfl
@[simp] theorem State.complete_responses (s : State) (x : Block × Response) :
    (s.complete x).responses = s.responses ++ [x.2] := rfl

@[simp] theorem State.present_toBlock (s : State) (w : CmdWord) : (s.present w).toBlock = s.toBlock := rfl
@[simp] theorem State.present_commands (s : State) (w : CmdWord) : (s.present w).commands = w :: s.commands := rfl
@[simp] theorem State.present_responses (s : State) (w : CmdWord) : (s.present w).responses = s.responses := rfl

@[simp] theorem State.rejectWord_toBlock (s : State) : s.rejectWord.toBlock = s.toBlock := rfl
@[simp] theorem State.rejectWord_commands (s : State) : s.rejectWord.commands = s.commands := rfl
@[simp] theorem State.rejectWord_responses (s : State) : s.rejectWord.responses = s.responses ++ [.illegal] := rfl

/-- Nothing is taken where nothing is presented. -/
theorem State.take_of_nil {s : State} (h : s.commands = []) : s.take = .none := by
  simp [State.take, h]

/-- The oldest word is taken, and nothing else of the state changes. -/
theorem State.take_of_cons {s : State} {w : CmdWord} {rest : List CmdWord} (h : s.commands = w :: rest) :
    s.take = .some (w, { s with commands := rest }) := by
  simp [State.take, h]

/-- A presented word is the one taken next, and taking it gives back the state it was presented to. -/
theorem State.take_present (s : State) (w : CmdWord) : (s.present w).take = .some (w, s) := rfl

end Sys2Proof.Machine
end

