-- ==== Sys2Proof/Laws/Step.lean ====
section
/-! SUPPORT. What a step, a word and a run can do, each said once. -/

namespace Sys2Proof.Machine

/-- A legal word runs its command. -/
theorem runWord_of_ok {w : CmdWord} {i : Instr} (h : decode w = .ok i) (s : State) : runWord w s = exec i s := by
  simp [runWord, h]

/-- An illegal word is answered, and nothing else happens (R42, R103). -/
theorem runWord_of_error {w : CmdWord} {c : IllegalCause} (h : decode w = .error c) (s : State) :
    runWord w s = .next s.rejectWord := by
  simp [runWord, h]

/-- A step with a command presented runs its word in the state from which it has been taken. -/
theorem step_of_cons {s : State} {w : CmdWord} {rest : List CmdWord} (h : s.commands = w :: rest) :
    step s = runWord w { s with commands := rest } := by
  simp [step, State.take_of_cons h]

/-- Everything a step that goes on can have done. -/
theorem step_cases {s t : State} (h : step s = .next t) :
    (s.commands = [] ∧ t = s) ∨
    ∃ (w : CmdWord) (rest : List CmdWord), s.commands = w :: rest ∧ runWord w { s with commands := rest } = .next t := by
  cases hc : s.commands with
  | nil => simp [step, State.take_of_nil hc] at h; exact .inl ⟨rfl, h.symm⟩
  | cons w rest => exact .inr ⟨w, rest, rfl, by rw [← step_of_cons hc]; exact h⟩

@[simp] theorem applyGenf_eq (n : Byte) (blk : Block) : applyGenf n blk = (blk, .data (genf Config.poly n)) := rfl
@[simp] theorem applyGenr_eq (n : Byte) (blk : Block) : applyGenr n blk = (blk, .data (genr Config.poly n)) := rfl
@[simp] theorem applyLutf_eq (i : Byte) (blk : Block) : applyLutf i blk = (blk, .data (ftab i)) := rfl
@[simp] theorem applyLutr_eq (i : Byte) (blk : Block) : applyLutr i blk = (blk, .data (rtab i)) := rfl
@[simp] theorem applyInit_eq (blk : Block) : applyInit blk = (⟨Config.initv⟩, .none) := rfl
@[simp] theorem applyUpd_eq (b : Byte) (blk : Block) : applyUpd b blk = (⟨crcstep blk.reg b⟩, .none) := rfl
@[simp] theorem applyFin_eq (blk : Block) : applyFin blk = (blk, .data (blk.reg ^^^ Config.xorout)) := rfl

/-- The meanings as one table: the next `REG` and the response of each command. -/
theorem Block.execute_eq (blk : Block) (i : Instr) :
    blk.execute i = (⟨match i with
      | .init => Config.initv
      | .upd b => crcstep blk.reg b
      | .genf _ | .genr _ | .lutf _ | .lutr _ | .fin => blk.reg⟩, match i with
      | .genf n => .data (genf Config.poly n)
      | .genr n => .data (genr Config.poly n)
      | .lutf k => .data (ftab k)
      | .lutr k => .data (rtab k)
      | .init | .upd _ => .none
      | .fin => .data (blk.reg ^^^ Config.xorout)) := by
  cases i <;> rfl

/-- A command on the machine is its effect on the block, completed on the port. -/
theorem exec_eq (i : Instr) (s : State) : exec i s = .next (s.complete (s.toBlock.execute i)) := by
  cases i <;> rfl

/-- A word on the machine is the block's step, completed on the port (R19, R38). -/
theorem runWord_eq (w : CmdWord) (s : State) : runWord w s = .next (s.complete (s.toBlock.step w)) := by
  cases h : decode w with
  | ok i => rw [runWord_of_ok h, exec_eq, Block.step, h]
  | error c => rw [runWord_of_error h, Block.step, h]; rfl

/-- Steps add up. -/
theorem stepMany_add (j k : Nat) (s t : State) (h : stepMany j s = .next t) :
    stepMany (j + k) s = stepMany k t := by
  induction j generalizing s with
  | zero => cases h; rw [Nat.zero_add]
  | succ j ih =>
    rw [show j + 1 + k = (j + k) + 1 by omega]
    cases hs : step s with
    | next s' => simp only [stepMany, hs] at h ⊢; exact ih s' h
    | fault r => simp [stepMany, hs] at h
    | refused r => simp [stepMany, hs] at h

/-- A run of no commands. -/
theorem runCommands_nil (s : State) : runCommands [] s = .next { s with commands := [] } := rfl

/-- A step that goes on, then the rest of the steps. -/
theorem stepMany_succ_of_next {k : Nat} {s t : State} (h : step s = .next t) :
    stepMany (k + 1) s = stepMany k t := by
  simp [stepMany, h]

end Sys2Proof.Machine
end

