-- ==== Sys2Proof/Laws/Run.lean ====
section
/-! SUPPORT. What a word and a run of words can do, each said once. -/

namespace Sys2Proof.Machine

/-- The register after a word and the rest is the register after the rest, from where the block's step leaves it. -/
theorem regAfter_cons (blk : Block) (w : CmdWord) (ws : List CmdWord) :
    regAfter blk.reg (w :: ws) = regAfter (blk.step w).1.reg ws := by
  cases h : decode w with
  | ok i => simp only [regAfter, Block.step, h]; cases i <;> rfl
  | error c => simp only [regAfter, Block.step, h]; rfl

/-- A word always runs to completion: the pending commands stay, one response is added, and `REG` is what `regAfter` says of
the word (R29, R35, R38). -/
theorem runWord_result (w : CmdWord) (s : State) : ∃ (t : State) (r : Response), runWord w s = .next t ∧
    t.commands = s.commands ∧ t.responses = s.responses ++ [r] ∧
    ∀ ws : List CmdWord, regAfter s.reg (w :: ws) = regAfter t.reg ws :=
  ⟨_, _, runWord_eq w s, rfl, rfl, regAfter_cons s.toBlock w⟩

/-- What a word does does not depend on the commands pending behind it (R38). -/
theorem runWord_withCommands {w : CmdWord} {s t : State} (ws : List CmdWord) (h : runWord w s = .next t) :
    runWord w { s with commands := ws } = .next { t with commands := ws } := by
  rw [runWord_eq] at h ⊢
  cases h
  rfl

/-- A run is its first word, then the rest. -/
theorem runCommands_cons {w : CmdWord} {ws : List CmdWord} {s t : State}
    (h : runWord w { s with commands := ws } = .next t) : runCommands (w :: ws) s = runCommands ws t := by
  obtain ⟨t', r, e, hc, -, -⟩ := runWord_result w { s with commands := ws }
  rw [h] at e
  cases e
  have hs : step { s with commands := w :: ws } = .next t := (step_of_cons rfl).trans h
  refine (stepMany_succ_of_next (k := ws.length) hs).trans ?_
  rw [runCommands]
  congr 1
  cases t
  simp only at hc
  simp [hc]

/-- A run of two lists is a run of the second from the end of the first. -/
theorem runCommands_append {a : List CmdWord} (b : List CmdWord) {s t : State} (h : runCommands a s = .next t) :
    runCommands (a ++ b) s = runCommands b t := by
  induction a generalizing s with
  | nil => cases h; rfl
  | cons w a ih =>
    obtain ⟨u, r, hu, -, -, -⟩ := runWord_result w { s with commands := a }
    rw [runCommands_cons hu] at h
    have hu' : runWord w { s with commands := a ++ b } = .next { u with commands := a ++ b } :=
      runWord_withCommands (s := { s with commands := a }) (a ++ b) hu
    rw [List.cons_append, runCommands_cons hu', ← ih h]
    rfl

/-- The register after two lists is the register after the second from that after the first. -/
theorem regAfter_append (r : Word) (a b : List CmdWord) : regAfter r (a ++ b) = regAfter (regAfter r a) b := by
  induction a generalizing r with
  | nil => rfl
  | cons w a ih =>
    simp only [List.cons_append, regAfter]
    cases decode w with
    | error c => exact ih r
    | ok i => cases i <;> exact ih _

/-- The steps of a run are those of the host's run of the machine behind its interface. -/
theorem stepMany_eq_core_run (k : Nat) (s : State) : stepMany k s = Host.Core.run Sys2Proof.core k s := by
  induction k generalizing s with
  | zero => rfl
  | succ k ih =>
    cases h : step s with
    | next s' =>
      have hc : Sys2Proof.core.step s = .next s' := h
      simp only [stepMany, h, Host.Core.run, hc]
      exact ih s'
    | fault r => exact nomatch r
    | refused r =>
      have hc : Sys2Proof.core.step s = .refused r := h
      simp only [stepMany, h, Host.Core.run, hc]
      rfl

end Sys2Proof.Machine
end

