-- ==== Sys2Proof/Machine/Flags.lean ====
section
/-! DEFINITION. The flag computations of the block: there are none. "There are no status flags, condition codes or
predicates" (10_state.md R14), every command's rule says "Flags written: none" (R52, R53, R62, R63, R71, R72, R73), and no
operation has a carry or an overflow (00_scope.md R7). State therefore holds no flag, and this file defines nothing. -/
end

