-- ==== Sys2Proof/Tests/Slice0.lean ====
section
/-! SUPPORT. The model's own tests: the checks of WellFormed refuse an ill-formed term each, words written out from the spec's
encodings decode as it says, one or two steps per command against the spec's own numbers, and a witness for the hypotheses
of each statement. Expected results are the spec's (the rule or vector is named), never the model's. -/

namespace Sys2Proof.Tests

open Sys2Proof Sys2Proof.Machine

/-- A block with the given register and one command presented. -/
def blockWith (r : Word) (w : CmdWord) : State := ⟨⟨r⟩, [w], []⟩

/-- The outcome of one command: the register and the one response. -/
def answers (r : Word) (resp : Response) : Host.Outcome State Fault Refusal := .next ⟨⟨r⟩, [], [resp]⟩

/-! ### WellFormed: each check refuses an ill-formed term -/

/-- R42 (b): `0x6131` has `rsv = 1`. -/
theorem test_wf_reserved_refused : (Fields.mk 6#4 1#4 0x31#8).rsvOk = false ∧ (Fields.mk 6#4 1#4 0x31#8).wf = false := by decide
/-- R42 (a): `0x0000` and `0x8000` have undefined operation codes. -/
theorem test_wf_opcode_refused : (Fields.mk 0#4 0#4 0#8).opOk = false ∧ (Fields.mk 8#4 0#4 0#8).wf = false := by decide
/-- R42 (c): `0x5001` and `0x70FF` have an operand that must be zero. -/
theorem test_wf_operand_refused : (Fields.mk 5#4 0#4 1#8).argOk = false ∧ (Fields.mk 7#4 0#4 0xFF#8).wf = false := by decide
/-- R40, R44: an operand is at most 255. -/
theorem test_wf_operand_range_refused : operandInRange 256 = false ∧ operandInRange 255 = true := by decide

/-! ### Decoding: words written out bit by bit from R36, R39 and R41 -/

theorem test_decode_genf : decode 0b0001000010000000#16 = .ok (.genf 0x80#8) := by decide
theorem test_decode_genr : decode 0b0010000000000001#16 = .ok (.genr 0x01#8) := by decide
theorem test_decode_lutf : decode 0b0011000011111111#16 = .ok (.lutf 0xFF#8) := by decide
theorem test_decode_lutr : decode 0b0100000011011011#16 = .ok (.lutr 0xDB#8) := by decide
theorem test_decode_init : decode 0b0101000000000000#16 = .ok .init := by decide
theorem test_decode_upd : decode 0b0110000000110001#16 = .ok (.upd 0x31#8) := by decide
theorem test_decode_fin : decode 0b0111000000000000#16 = .ok .fin := by decide
/-- V24: illegal words of each ground; R106: `rsv` is looked at first. -/
theorem test_decode_illegal :
    decode 0x0031#16 = .error .undefinedOp ∧ decode 0xF000#16 = .error .undefinedOp ∧
    decode 0x3801#16 = .error .reservedNonzero ∧ decode 0x8101#16 = .error .reservedNonzero ∧
    decode 0x50FF#16 = .error .operandNonzero ∧ decode 0x7001#16 = .error .operandNonzero := by decide
theorem test_decodeTableWord : decodeTableWord 16 0x60FF = some (.upd 0xFF#8) ∧ decodeTableWord 16 0x6131 = none := by decide

/-! ### One step per command -/

/-- V9. -/
theorem test_step_genf : step (blockWith 0x12345678#32 0x10FF#16) = answers 0x12345678#32 (.data 0x2D02EF8D#32) := by rfl
/-- V10. -/
theorem test_step_genr : step (blockWith 0x12345678#32 0x2080#16) = answers 0x12345678#32 (.data 0x6567CB95#32) := by rfl
/-- V12. -/
theorem test_step_lutf : step (blockWith 0#32 0x3003#16) = answers 0#32 (.data 0x990951BA#32) := by rfl
/-- V23. -/
theorem test_step_lutr : step (blockWith 0#32 0x40DB#16) = answers 0#32 (.data 0xBBC9D62A#32) := by rfl
/-- R71. -/
theorem test_step_init : step (blockWith 0x12345678#32 0x5000#16) = answers 0xFFFFFFFF#32 .none := by rfl
/-- V14, the first step of V15. -/
theorem test_step_upd : step (blockWith 0xFFFFFFFF#32 0x6031#16) = answers 0x7C231048#32 .none := by rfl
/-- V14: the shift is logical. -/
theorem test_step_upd_logical : step (blockWith 0x80000000#32 0x6000#16) = answers 0x00800000#32 .none := by rfl
/-- R73. -/
theorem test_step_fin : step (blockWith 0x340BC6D9#32 0x7000#16) = answers 0x340BC6D9#32 (.data 0xCBF43926#32) := by rfl
/-- V25. -/
theorem test_step_illegal : step (blockWith 0x7C231048#32 0x6131#16) = answers 0x7C231048#32 .illegal := by rfl
/-- The first step after reset with a word placed by `withFetchWord` (V20). -/
theorem test_step_withFetchWord : step (State.reset.withFetchWord 16 0x6031) = answers 0x7C231048#32 .none := by rfl

/-! ### Functions on buffers -/

/-- V15 and V19. -/
theorem test_crc32_prefixes :
    crc32 [0x31#8, 0x32#8] = 0x4F5344CD#32 ∧ crc32 [0x32#8, 0x31#8] = 0xFD7746B4#32 := by decide
/-- V30. -/
theorem test_fixcrc_whole_buffer :
    fixcrc [0xAA#8, 0xBB#8, 0xCC#8, 0xDD#8] 0xDEADBEEF#32 0 = (.success 0, [0xC3#8, 0xD8#8, 0x24#8, 0x06#8]) := by decide
/-- V37: an interior window, from a negative offset. -/
theorem test_fixcrc_interior :
    fixcrc [0x48#8, 0x65#8, 0x6C#8, 0x6C#8, 0x6F#8, 0x2C#8, 0x20#8, 0x77#8, 0x6F#8, 0x72#8, 0x6C#8, 0x64#8] 0#32 (-9) =
      (.success 3, [0x48#8, 0x65#8, 0x6C#8, 0x5D#8, 0x17#8, 0x16#8, 0xED#8, 0x77#8, 0x6F#8, 0x72#8, 0x6C#8, 0x64#8]) := by
  decide
/-- V29, the rows on either side of each limit. -/
theorem test_validate_limits :
    [(20, 16), (20, -4), (20, 0), (20, 20), (4, 4), (5, 1)].map (fun x : Nat × Int => validate x.1 x.2) =
      [some 16, some 16, some 0, some 0, some 0, some 1] ∧
    [(20, 17), (20, -3), (20, -1), (4, 1), (4, -1), (5, 2), (3, 0), (0, 0)].map (fun x : Nat × Int => validate x.1 x.2) =
      [none, none, none, none, none, none, none, none] := by decide
/-- V32, carried out with the block's commands (P4): `p + 2 = 6` commands forward, `len - p = 4` backward. -/
theorem test_fixcrc_on_block :
    (fixcrcOnBlock [0x41#8, 0x42#8, 0x43#8, 0x44#8, 0#8, 0#8, 0#8, 0#8] 0x12345678#32 4 State.reset).map
        (fun x => (x.1, x.2.1, x.2.2.reg, x.2.2.responses.length)) =
      some (.success 4, [0x41#8, 0x42#8, 0x43#8, 0x44#8, 0x17#8, 0x27#8, 0x09#8, 0x6C#8], 0x24E8DF5A#32, 10) := by decide

/-! ### Assembler -/

/-- R44: three ways to write an operand, and a comment. -/
theorem test_assemble_operands :
    assemble "UPD '1' ; a\nUPD 0x31\nUPD 49".toList = some [0x6031#16, 0x6031#16, 0x6031#16] := by decide
/-- R47 and D17. -/
theorem test_assemble_pseudo :
    assemble "CRC32 \"12\"\nCRC32 1, 0x02\n.word 0x6131".toList =
      some [0x5000#16, 0x6031#16, 0x6032#16, 0x7000#16, 0x5000#16, 0x6001#16, 0x6002#16, 0x7000#16, 0x6131#16] := by decide
/-- R40, R44: what is no line. -/
theorem test_assemble_refuses :
    assembleLine "UPD 256".toList = none ∧ assembleLine "INIT 0".toList = none ∧ assembleLine "upd 1".toList = none ∧
    assembleLine "UPD 'ab'".toList = none := by decide

/-! ### Witnesses: a concrete state or operand that meets the hypotheses of each statement -/

theorem witness_GenfIsEightForwardIterations :
    IsForwardSequence 0xEDB88320#32 1#8 (fun k => iterate (genfStep 0xEDB88320#32) k 1#32) := ⟨rfl, by decide⟩
theorem witness_GenrIsEightReverseIterations :
    IsReverseSequence 0xEDB88320#32 1#8 (fun k => iterate (genrStep 0xEDB88320#32) k 0x01000000#32) := ⟨rfl, by decide⟩
theorem witness_GenrIsEightReverseIterations_other_order :
    ∃ d : Nat → Word, d 0 = 0x01000000#32 ∧
      ∀ k < 8, d (k + 1) = if (d k).getLsbD 31 then ((d k <<< 1) ^^^ 0xEDB88320#32) ||| 1#32 else d k <<< 1 :=
  ⟨fun k => iterate (fun c => if c.getLsbD 31 then ((c <<< 1) ^^^ 0xEDB88320#32) ||| 1#32 else c <<< 1) k 0x01000000#32,
    rfl, by decide⟩
theorem witness_ReverseStepUndoesForwardStep :
    0x7C231048#32 = (0xFFFFFFFF#32 >>> 8) ^^^ genf 0xEDB88320#32 (lo8 (0xFFFFFFFF#32 ^^^ zext32 0x31#8)) := by decide
theorem witness_ReverseTableMirrorsForwardTable : hi8 (ftab 1#8) = 0x77#8 ∧ hi8 (ftab 1#8) = hi8 (ftab 1#8) := by decide
theorem witness_InitCompletes :
    (0x01#8 ≠ 0#8 ∧ 0xFF#8 ≠ 0#8) ∧ exec .init ⟨⟨0x12345678#32⟩, [], []⟩ = .next ⟨⟨0xFFFFFFFF#32⟩, [], [.none]⟩ ∧
    exec .init ⟨⟨0xFFFFFFFF#32⟩, [], [.none]⟩ = .next ⟨⟨0xFFFFFFFF#32⟩, [], [.none, .none]⟩ ∧
    exec .init State.reset = .next ⟨⟨0xFFFFFFFF#32⟩, [], [.none]⟩ := ⟨by decide, rfl, rfl, rfl⟩
theorem witness_FinCompletes : 0x01#8 ≠ 0#8 ∧ 0xFF#8 ≠ 0#8 := by decide
/-- V27, with an illegal word and a `FIN` between as well. -/
theorem witness_MessageCommandsComputeCrc32 :
    CarriesMessage [0x31#8, 0x32#8]
      [0x5000#16, 0x6031#16, 0x3001#16, 0x7000#16, 0x6131#16, 0x20FF#16, 0x6032#16] := by
  unfold CarriesMessage; decide
theorem witness_OpcodeMapDecidesDecoding :
    decode 0x60FF#16 = .ok (.upd 0xFF#8) ∧ (⟨0x6000#16, 0xFF00#16⟩ : OpcodeRow) ∈ opcodeMap ∧
    OpcodeRow.accepts ⟨0x6000#16, 0xFF00#16⟩ 0x60FF#16 = true := by decide
/-- One word for each ground of R42, at the ends of its range. -/
theorem witness_IllegalWordsAreAnsweredAndHarmless :
    IllegalWord 0x0000#16 ∧ IllegalWord 0x8000#16 ∧ IllegalWord 0xF000#16 ∧ IllegalWord 0x6131#16 ∧ IllegalWord 0x7F00#16 ∧
    IllegalWord 0x5001#16 ∧ IllegalWord 0x70FF#16 ∧ ¬IllegalWord 0x1000#16 ∧ ¬IllegalWord 0x7000#16 ∧
    (⟨⟨0x7C231048#32⟩, [0x6131#16, 0x6032#16], []⟩ : State).commands = 0x6131#16 :: 0x6032#16 :: [] := by
  refine ⟨?_, ?_, ?_, ?_, ?_, ?_, ?_, ?_, ?_, rfl⟩ <;> decide
theorem witness_DecodeEncodeRoundTrip : (Instr.upd 0xFF#8).wf = true ∧ decode 0x40DB#16 = .ok (.lutr 0xDB#8) := by decide
theorem witness_StepIsAFunctionOfRegAndCommand :
    (blockWith 0#32 0x6131#16).commands = 0x6131#16 :: [] ∧ IllegalWord 0x6131#16 := by decide
theorem witness_DecoderAcceptsExactlyWellFormedFields :
    (fieldsOf 0x60FF#16).wf = true ∧ (fieldsOf 0x6131#16).wf = false := by decide
theorem witness_AssemblerReadsEveryCommand :
    (Instr.upd 127#8).operand = some 127#8 ∧ (127#8 : Byte).toNat < 128 ∧ (Instr.genf 0#8).operand = some 0#8 := by decide
theorem witness_StepRunsDecodedCommand :
    (blockWith 0#32 0x6031#16).commands = 0x6031#16 :: [] ∧ decode 0x6031#16 = .ok (.upd 0x31#8) := by decide
theorem witness_OnlyInitAndUpdWriteReg :
    step (blockWith 0xFFFFFFFF#32 0x6031#16) = answers 0x7C231048#32 .none ∧ (0x7C231048#32 : Word) ≠ 0xFFFFFFFF#32 :=
  ⟨rfl, by decide⟩
theorem witness_OnlyUpdAndFinReadReg :
    step ⟨⟨0#32⟩, [0x3001#16], []⟩ = answers 0#32 (.data 0x77073096#32) ∧
    step ⟨⟨1#32⟩, [0x3001#16], []⟩ = answers 1#32 (.data 0x77073096#32) ∧
    0x3001#16 ≠ 0x7000#16 ∧ 0x3001#16 &&& 0xFF00#16 ≠ 0x6000#16 := ⟨rfl, rfl, by decide, by decide⟩
theorem witness_CommandsChangeOnlyWhatTheyName :
    exec .fin State.reset = .next ⟨⟨0xFFFFFFFF#32⟩, [], [.data 0#32]⟩ ∧ Instr.fin ≠ .init ∧ ∀ b : Byte, Instr.fin ≠ .upd b :=
  ⟨rfl, by decide, fun _ h => nomatch h⟩
/-- An illegal word by R42 (b), then a `FIN` pending behind it. -/
theorem witness_MachineRunsBlockStepAlone :
    IllegalWord 0x6131#16 ∧ (⟨⟨0#32⟩, [0x6131#16, 0x7000#16], [.none]⟩ : State).commands = 0x6131#16 :: [0x7000#16] ∧
    (⟨0#32⟩ : Block).reg = State.reset.toBlock.reg ^^^ 0xFFFFFFFF#32 := by decide
theorem witness_NothingChangesBetweenCommands : State.reset.commands = [] := rfl
theorem witness_MissingInitConcatenatesMessages : (⟨⟨0xB0ACBB32#32⟩, [], []⟩ : State).reg = rawcrc [0x31#8, 0x32#8] := by decide
/-- An invariant that has seen a command, and the step that takes the next. -/
theorem witness_StepKeepsRunInvariant :
    RunInv ⟨⟨0xFFFFFFFF#32⟩, [0x6031#16, 0x7000#16], []⟩ ⟨⟨0x7C231048#32⟩, [0x7000#16], [.none]⟩ ∧
    step ⟨⟨0x7C231048#32⟩, [0x7000#16], [.none]⟩ = .next ⟨⟨0x7C231048#32⟩, [], [.none, .data 0x83DCEFB7#32]⟩ :=
  ⟨⟨[0x6031#16], rfl, ⟨[.none], rfl⟩, rfl, by decide⟩, rfl⟩
theorem witness_DoubleModuloNormalisesOffset : 0 < 20 ∧ normalise 20 (-1) = 19 := by decide
theorem witness_FixcrcRejectsExactlyInvalidLengths :
    (fixcrc [0x41#8, 0x42#8, 0x43#8] 0#32 0).1 = .invalidLength ∧
    (fixcrc [0x41#8, 0x42#8, 0x43#8, 0x44#8] 0#32 1).1 = .invalidLength := by decide
theorem witness_FourByteWriteIsLittleEndian : 0 + 4 ≤ [0xAA#8, 0xBB#8, 0xCC#8, 0xDD#8].length ∧ (3 : Nat) < 4 := by decide
/-- V30: the forward pass is empty, the placeholder is `FF FF FF FF`, and the backward pass takes the four values of its table. -/
theorem witness_FixcrcFollowsItsThreeSteps :
    let buf := [0xAA#8, 0xBB#8, 0xCC#8, 0xDD#8]
    let held := [0xFF#8, 0xFF#8, 0xFF#8, 0xFF#8]
    let d := fun i : Nat => [0x0624D8C3#32, 0x2F69585F#32, 0xD6F9CAB0#32, 0xE6B5A5CB#32, 0x21524110#32].getD i 0#32
    validate buf.length 0 = some 0 ∧
    held = buf.take 0 ++ [(0xFFFFFFFF#32).extractLsb' 0 8, (0xFFFFFFFF#32).extractLsb' 8 8,
      (0xFFFFFFFF#32).extractLsb' 16 8, (0xFFFFFFFF#32).extractLsb' 24 8] ++ buf.drop (0 + 4) ∧
    d buf.length = 0xDEADBEEF#32 ^^^ 0xFFFFFFFF#32 ∧
    (∀ (i : Nat) (b : Byte), 0 ≤ i → held[i]? = some b →
      d i = ((d (i + 1) <<< 8) ^^^ rtab ((d (i + 1)).extractLsb' 24 8)) ^^^ b.setWidth 32) ∧
    (∀ (i : Nat) (b : Byte), i < 0 → buf[i]? = some b → (0xFFFFFFFF#32 : Word) = crcstep 0xFFFFFFFF#32 b) := by
  refine ⟨by decide, by decide, by decide, ?_, fun i b h => absurd h (by omega)⟩
  intro i b _ h
  rcases i with _ | _ | _ | _ | i
  · cases h; decide
  · cases h; decide
  · cases h; decide
  · cases h; decide
  · simp at h
theorem witness_FixcrcReachesTargetInsideWindow :
    4 ≤ [0xAA#8, 0xBB#8, 0xCC#8, 0xDD#8, 0xEE#8].length ∧ (1 : Int) % 5 + 4 ≤ 5 := by decide
theorem witness_FixcrcIsIdempotentAndIgnoresOldWindow :
    fixcrc [0xAA#8, 0xBB#8, 0xCC#8, 0xDD#8] 0xDEADBEEF#32 0 = (.success 0, [0xC3#8, 0xD8#8, 0x24#8, 0x06#8]) ∧
    normalise 4 0 = normalise 4 4 ∧ (List.replicate 20 0x41#8).length = 20 ∧ validate 4 0 = some 0 ∧
    AgreeOutsideWindow 0 [0xAA#8, 0xBB#8, 0xCC#8, 0xDD#8] [1#8, 2#8, 3#8, 4#8] := by
  refine ⟨by decide, by decide, by decide, by decide, rfl, fun i hi => ?_⟩
  rcases hi with hi | hi
  · omega
  · rw [List.getElem?_eq_none (by simpa using hi), List.getElem?_eq_none (by simpa using hi)]
set_option maxRecDepth 4000 in
/-- V34: byte 10 of the buffer `00 01 ... 13` flipped, the window at the end. -/
theorem witness_FlippedByteForcesAnotherWindow :
    let buf := (List.range 20).map (BitVec.ofNat 8)
    (0x0A#8 ≠ 0xF5#8) ∧ buf[10]? = some 0x0A#8 ∧ (10 < 16 ∨ 16 + 4 ≤ 10) ∧
    fixcrc (buf.set 10 0xF5#8) (crc32 buf) 16 =
      (.success 16, (List.range 10).map (BitVec.ofNat 8) ++
        [0xF5#8, 0x0B#8, 0x0C#8, 0x0D#8, 0x0E#8, 0x0F#8, 0xDC#8, 0xBA#8, 0xD6#8, 0xF7#8]) := by
  refine ⟨by decide, rfl, by decide, ?_⟩
  decide
theorem witness_FixcrcOnBlockRefinesFixcrc :
    (fixcrc [0xAA#8, 0xBB#8, 0xCC#8, 0xDD#8] 0xDEADBEEF#32 0).1 = .success 0 ∧ (fixcrc [] 0#32 0).1 = .invalidLength := by
  decide
theorem witness_FixcrcWithTableCopyRefinesFixcrc :
    (fixcrc [0xAA#8, 0xBB#8, 0xCC#8, 0xDD#8, 0xEE#8] 0#32 (-4)).1 = .success 1 ∧
    (fixcrc [0xAA#8, 0xBB#8, 0xCC#8, 0xDD#8, 0xEE#8] 0#32 2).1 = .invalidLength := by decide

end Sys2Proof.Tests
end

section
/-! SUPPORT. The decoder and the encoder: which words decode, to what, and that the accepted words are the commands'
encodings (30_encoding.md R36, R39, R41, R42, R44). -/

namespace Sys2Proof.Machine

theorem decodeZ_error_iff (arg : Byte) (i : Instr) : (∃ c, decodeZ arg i = .error c) ↔ arg ≠ 0#8 := by
  by_cases h : arg = 0#8 <;> simp [decodeZ, h]

theorem decodeZ_ok_iff (arg : Byte) (i j : Instr) : decodeZ arg i = .ok j ↔ arg = 0#8 ∧ i = j := by
  by_cases h : arg = 0#8 <;> simp [decodeZ, h]

/-- The ground on which the command selected by an operation code is rejected: grounds (a) and (c) of R42. -/
theorem decodeOp_error_iff (op : BitVec 4) (arg : Byte) :
    (∃ c, decodeOp op arg = .error c) ↔
      (op = 0x0#4 ∨ 8 ≤ op.toNat) ∨ ((op = 0x5#4 ∨ op = 0x7#4) ∧ arg ≠ 0#8) := by
  unfold decodeOp
  split
  case h_5 | h_7 => simp [decodeZ_error_iff]
  case h_8 h1 h2 h3 h4 h5 h6 h7 =>
    have hop : op = 0x0#4 ∨ 8 ≤ op.toNat := by
      simp only [← BitVec.toNat_inj, BitVec.toNat_ofNat, imp_false] at h1 h2 h3 h4 h5 h6 h7 ⊢
      omega
    simp [hop]
  all_goals simp

/-- The command an operation code selects has that code and carries the operand. -/
theorem opcodeOf_argOf_of_decodeOp {op : BitVec 4} {arg : Byte} {i : Instr} (h : decodeOp op arg = .ok i) :
    opcodeOf i = op ∧ argOf i = arg := by
  unfold decodeOp at h
  split at h
  case h_5 | h_7 =>
    obtain ⟨rfl, rfl⟩ := (decodeZ_ok_iff ..).mp h
    exact ⟨rfl, rfl⟩
  case h_8 => cases h
  all_goals cases h; exact ⟨rfl, rfl⟩

/-- The decoder gives back every command from its word. -/
@[simp] theorem decode_encode (i : Instr) : decode (encode i) = .ok i := by
  rw [decode, Laws.fieldsOf_encode]
  cases i <;> rfl

/-- A word the decoder accepts is the word of its command. -/
theorem encode_of_decode {w : CmdWord} {i : Instr} (h : decode w = .ok i) : encode i = w := by
  rw [decode, decodeFields] at h
  split at h
  case isTrue hrsv =>
    obtain ⟨hop, harg⟩ := opcodeOf_argOf_of_decodeOp h
    rw [encode, hop, harg, Laws.word_of_fields w hrsv]
  case isFalse => cases h

theorem encode_injective : Function.Injective encode := fun i j h => by
  simpa using congrArg decode h

/-- The decoder rejects exactly the words of the three grounds of R42. -/
theorem decode_error_iff (w : CmdWord) : (∃ c, decode w = .error c) ↔ IllegalWord w := by
  rw [decode, decodeFields, IllegalWord]
  by_cases hrsv : (fieldsOf w).rsv = 0#4
  · rw [if_pos hrsv, decodeOp_error_iff]
    simp only [fieldsOf] at hrsv ⊢
    simp [hrsv]
  · rw [if_neg hrsv]
    simp only [fieldsOf] at hrsv
    simp [hrsv]

/-- The legal words are the encodings of the commands. -/
theorem not_illegalWord_iff (w : CmdWord) : ¬IllegalWord w ↔ ∃ i, encode i = w := by
  rw [← decode_error_iff]
  constructor
  · intro h
    cases hd : decode w with
    | ok i => exact ⟨i, encode_of_decode hd⟩
    | error c => exact absurd ⟨c, hd⟩ h
  · rintro ⟨i, rfl⟩
    simp

theorem encode_genf (n : Byte) : encode (.genf n) = 0x1000#16 ||| n.setWidth 16 := by
  simp [encode, opcodeOf, argOf, Instr.operand]
theorem encode_genr (n : Byte) : encode (.genr n) = 0x2000#16 ||| n.setWidth 16 := by
  simp [encode, opcodeOf, argOf, Instr.operand]
theorem encode_lutf (i : Byte) : encode (.lutf i) = 0x3000#16 ||| i.setWidth 16 := by
  simp [encode, opcodeOf, argOf, Instr.operand]
theorem encode_lutr (i : Byte) : encode (.lutr i) = 0x4000#16 ||| i.setWidth 16 := by
  simp [encode, opcodeOf, argOf, Instr.operand]
theorem encode_init : encode .init = 0x5000#16 := rfl
theorem encode_upd (b : Byte) : encode (.upd b) = 0x6000#16 ||| b.setWidth 16 := by
  simp [encode, opcodeOf, argOf, Instr.operand]
theorem encode_fin : encode .fin = 0x7000#16 := rfl

end Sys2Proof.Machine
end

section
/-! SUPPORT. All the byte values, all the commands and all the legal words, listed (R40, R41, R42, R45). -/

namespace Sys2Proof.Machine

theorem allBytes_length : allBytes.length = 256 := by simp [allBytes]

theorem mem_allBytes (b : Byte) : b ∈ allBytes :=
  List.mem_map.mpr ⟨b.toNat, List.mem_range.mpr b.isLt, BitVec.ofNat_toNat .. ▸ BitVec.setWidth_eq b⟩

theorem allBytes_nodup : allBytes.Nodup :=
  List.nodup_range.map_on fun m hm n hn h => by
    have := congrArg BitVec.toNat h
    simp only [List.mem_range, BitVec.toNat_ofNat] at hm hn this
    omega

/-- Every command of the block, once: five with each of the 256 operands and the two without (R39, R40). -/
def allInstrs : List Instr :=
  allBytes.map .genf ++ (allBytes.map .genr ++ (allBytes.map .lutf ++ (allBytes.map .lutr ++
    (allBytes.map .upd ++ [.init, .fin]))))

theorem allInstrs_length : allInstrs.length = 5 * 256 + 2 := by simp [allInstrs, allBytes_length]

theorem mem_allInstrs (i : Instr) : i ∈ allInstrs := by
  cases i <;> simp [allInstrs, mem_allBytes]

theorem allInstrs_nodup : allInstrs.Nodup := by
  have each (mk : Byte → Instr) (h : ∀ a b, mk a = mk b → a = b) : (allBytes.map mk).Nodup :=
    allBytes_nodup.map fun a b => h a b
  simp [allInstrs, List.nodup_append, each, or_imp, forall_and]

/-- The legal words: the encodings of all the commands. -/
def legalWords : List CmdWord := allInstrs.map encode

theorem legalWords_length : legalWords.length = 5 * 256 + 2 := by
  rw [legalWords, List.length_map, allInstrs_length]

theorem legalWords_nodup : legalWords.Nodup := allInstrs_nodup.map encode_injective

theorem mem_legalWords (w : CmdWord) : w ∈ legalWords ↔ ¬IllegalWord w := by
  rw [not_illegalWord_iff, legalWords, List.mem_map]
  simp [mem_allInstrs]

end Sys2Proof.Machine
end

section
/-! SUPPORT. The block's step on a command's word and on an illegal word, and a step and a run of the machine as the block's own
step and run completed on the port (R19, R38, R126). -/

namespace Sys2Proof.Machine

@[simp] theorem Block.step_encode (blk : Block) (i : Instr) : blk.step (encode i) = blk.execute i := by
  rw [Block.step, decode_encode]

theorem Block.step_of_illegal (blk : Block) {w : CmdWord} (h : IllegalWord w) : blk.step w = (blk, .illegal) := by
  obtain ⟨c, hc⟩ := (decode_error_iff w).mpr h
  rw [Block.step, hc]
  rfl

/-- A step with a word presented takes the word, leaves the block the block's step leaves and adds its response. -/
theorem step_eq_block_step {s : State} {w : CmdWord} {rest : List CmdWord} (h : s.commands = w :: rest) :
    step s = .next ⟨(s.toBlock.step w).1, rest, s.responses ++ [(s.toBlock.step w).2]⟩ := by
  rw [step_of_cons h, runWord_eq]
  rfl

/-- A run of the machine is the block's run, its responses added after those already given. -/
theorem runCommands_eq_block_run (ws : List CmdWord) (s : State) :
    runCommands ws s = .next ⟨(s.toBlock.run ws).1, [], s.responses ++ (s.toBlock.run ws).2⟩ := by
  induction ws generalizing s with
  | nil => simp [runCommands_nil, Block.run]
  | cons w ws ih =>
    rw [runCommands_cons (runWord_eq w _), ih]
    simp [Block.run]

theorem Block.run_append (blk : Block) (a b : List CmdWord) :
    blk.run (a ++ b) = (((blk.run a).1.run b).1, (blk.run a).2 ++ ((blk.run a).1.run b).2) := by
  induction a generalizing blk with
  | nil => rfl
  | cons w a ih => simp [Block.run, ih]

/-- Commands that leave the block, one for each byte of a list, respond one value each in order. -/
theorem Block.run_reads {blk : Block} {mk : Byte → Instr} {v : Byte → Word}
    (h : ∀ b, blk.execute (mk b) = (blk, .data (v b))) (bs : List Byte) :
    blk.run (bs.map fun b => encode (mk b)) = (blk, bs.map fun b => .data (v b)) := by
  induction bs with
  | nil => rfl
  | cons b bs ih => simp [Block.run, h, ih]

/-- An `UPD` for each byte of a list carries the recurrence over the list and responds `NONE` each time (R72, R74). -/
theorem Block.run_updates (blk : Block) (bs : List Byte) :
    blk.run (bs.map fun b => encode (.upd b)) = (⟨crcFrom blk.reg bs⟩, List.replicate bs.length .none) := by
  induction bs generalizing blk with
  | nil => rfl
  | cons b bs ih => simp [Block.run, Block.execute, ih, crcFrom, List.replicate_succ]

end Sys2Proof.Machine
end

section
/-! SUPPORT. The listings of the table ROM agree with the generator: the 512 equalities that R65 asks of a model whose ROM is the
listing (R60, R61). -/

namespace Sys2Proof.Machine

/-- Word by word of the listing (R60). -/
theorem ftab_eq_genf : ∀ i : Byte, ftab i = genf Config.poly i := by decide

/-- Word by word of the listing (R61). -/
theorem rtab_eq_genr : ∀ i : Byte, rtab i = genr Config.poly i := by decide

end Sys2Proof.Machine
end

section
/-! PROOFS. Illegal words (R42) and the step as one function of `REG` and the word (R38). -/

namespace Sys2Proof.Machine

theorem step_of_illegal {s : State} {w : CmdWord} {rest : List CmdWord} (hw : IllegalWord w)
    (h : s.commands = w :: rest) :
    step s = .next { s with commands := rest, responses := s.responses ++ [.illegal] } := by
  rw [step_eq_block_step h, Block.step_of_illegal _ hw]

/-- The command after an illegal word leaves the register and gives the response it would have without that word (R42: nothing is
sticky). -/
theorem step_after_illegal {s : State} {w v : CmdWord} {rest : List CmdWord} (hw : IllegalWord w)
    (h : s.commands = w :: v :: rest) :
    ∃ (t u : State) (r : Response), step { s with commands := v :: rest } = .next t ∧ stepMany 2 s = .next u ∧
      u.reg = t.reg ∧ u.commands = t.commands ∧ t.responses = s.responses ++ [r] ∧
      u.responses = s.responses ++ [.illegal, r] := by
  refine ⟨_, ⟨(s.toBlock.step v).1, rest, s.responses ++ [.illegal] ++ [(s.toBlock.step v).2]⟩, _,
    step_eq_block_step rfl, ?_, rfl, rfl, rfl, List.append_assoc ..⟩
  rw [stepMany_succ_of_next (step_of_illegal hw h), stepMany_succ_of_next (step_eq_block_step rfl)]
  rfl

/-- Settles O27: the decoder's errors are the three grounds, the legal words are the 1282 encodings, and a rejected word
leaves the block on which the next word is run. -/
theorem illegalWordsAreAnsweredAndHarmless : Obligations.IllegalWordsAreAnsweredAndHarmless := by
  refine ⟨decode_error_iff, by decide, by decide, ?_, ?_, ?_⟩
  · exact ⟨legalWords, legalWords_nodup, mem_legalWords, legalWords_length, by rw [legalWords_length]⟩
  · exact fun w rest s => step_of_illegal
  · exact fun w v rest s => step_after_illegal

/-- The function of R38: the next `REG` and the response, from `REG` and the command word alone. -/
def regStep (r : Word) (w : CmdWord) : Word × Response :=
  (((⟨r⟩ : Block).step w).1.reg, ((⟨r⟩ : Block).step w).2)

theorem regStep_encode (r : Word) (i : Instr) :
    regStep r (encode i) = (((⟨r⟩ : Block).execute i).1.reg, ((⟨r⟩ : Block).execute i).2) := by
  rw [regStep, Block.step_encode]

theorem regStep_of_illegal (r : Word) {w : CmdWord} (h : IllegalWord w) : regStep r w = (r, .illegal) := by
  rw [regStep, Block.step_of_illegal _ h]

/-- Settles O31: the block's step, read as a function of `REG` and the word, is the function; on each command's word it is the
command's meaning. -/
theorem stepIsAFunctionOfRegAndCommand : Obligations.StepIsAFunctionOfRegAndCommand := by
  refine ⟨regStep, fun w rest s h => step_eq_block_step h, fun r n => ?_, fun r w => regStep_of_illegal r⟩
  rw [← encode_genf, ← encode_genr, ← encode_lutf, ← encode_lutr, ← encode_init, ← encode_upd, ← encode_fin]
  simp only [regStep_encode]
  exact ⟨rfl, rfl, rfl, rfl, rfl, rfl, rfl⟩

end Sys2Proof.Machine
end

section
/-! PROOFS. The pseudo-instructions (R45 to R48). -/

namespace Sys2Proof.Machine

/-- The words of a command with each byte value in turn, as the numbers `0..255` under the operation code. -/
theorem allBytes_words {base : CmdWord} {mk : Byte → Instr} (h : ∀ b, encode (mk b) = base ||| b.setWidth 16) :
    (allBytes.map fun b => encode (mk b)) = (List.range 256).map fun n => base ||| BitVec.ofNat 16 n := by
  rw [allBytes, List.map_map]
  refine List.map_congr_left fun n hn => ?_
  have hn : n < 256 := List.mem_range.mp hn
  have widen : (BitVec.ofNat 8 n).setWidth 16 = BitVec.ofNat 16 n := by
    apply BitVec.eq_of_toNat_eq
    simp
    omega
  rw [Function.comp_apply, h, widen]

/-- The commands that read a table, run over all byte values, leave the block and respond the table in order. -/
theorem runCommands_reads {mk : Byte → Instr} {v : Byte → Word}
    (h : ∀ (b : Byte) (blk : Block), blk.execute (mk b) = (blk, .data (v b))) (s : State) :
    runCommands (allBytes.map fun b => encode (mk b)) s =
      .next ⟨s.toBlock, [], s.responses ++ (List.range 256).map fun n => .data (v (BitVec.ofNat 8 n))⟩ := by
  rw [runCommands_eq_block_run, Block.run_reads (h · s.toBlock), allBytes, List.map_map]
  rfl

/-- Settles O34: each pseudo-instruction is one reading command over all byte values, and the ROM holds what the generator
makes. -/
theorem tablePseudoInstructionsListTheTables : Obligations.TablePseudoInstructionsListTheTables := by
  refine ⟨allBytes_words encode_genf, allBytes_words encode_genr, allBytes_words encode_lutf, allBytes_words encode_lutr,
    fun s => ?_⟩
  have buildf := runCommands_reads (mk := .genf) applyGenf_eq s
  have buildr := runCommands_reads (mk := .genr) applyGenr_eq s
  have dumpf := runCommands_reads (mk := .lutf) applyLutf_eq s
  have dumpr := runCommands_reads (mk := .lutr) applyLutr_eq s
  simp only [ftab_eq_genf] at dumpf
  simp only [rtab_eq_genr] at dumpr
  exact ⟨buildf, buildr, dumpf.trans buildf.symm, dumpr.trans buildr.symm⟩

/-- The block's run of the pseudo-instruction `CRC32` (R47). -/
theorem Block.run_crc32 (blk : Block) (bytes : List Byte) :
    blk.run (Line.crc32 bytes).words =
      (⟨rawcrc bytes⟩, .none :: List.replicate bytes.length .none ++ [.data (crc32 bytes)]) := by
  simp [Line.words, Block.run, Block.run_append, Block.run_updates, Block.execute, rawcrc, crc32]

/-- Settles O35: `INIT` starts the recurrence, the `UPD`s carry it over the bytes, and `FIN` reads it out. -/
theorem crc32PseudoInstructionRespondsChecksum : Obligations.Crc32PseudoInstructionRespondsChecksum := by
  refine ⟨fun bytes s => ⟨rfl, ?_, ?_⟩, rfl, rfl⟩
  · simp [Line.words]
  · rw [runCommands_eq_block_run, Block.run_crc32]

end Sys2Proof.Machine
end

section
/-! SUPPORT. The iterates of a generator step: they are the values of the spec's sequences (R50, R51), eight of them on a whole word
are one table step (R70, R90), and those of the reverse step undo those of the forward step (the ground of R56). -/

namespace Sys2Proof.Machine

/-- The model's iteration is the library's. -/
theorem iterate_eq_natIterate (f : Word → Word) (k : Nat) : iterate f k = f^[k] := by
  induction k with
  | zero => rfl
  | succ k ih => funext c; rw [iterate, ih, Function.iterate_succ_apply]

/-- One more iteration, taken last. -/
theorem iterate_succ_last (f : Word → Word) (k : Nat) (x : Word) : iterate f (k + 1) x = f (iterate f k x) := by
  simp only [iterate_eq_natIterate, Function.iterate_succ_apply']

/-- What undoes one iteration undoes as many as there were. -/
theorem iterate_leftInverse {f g : Word → Word} (h : Function.LeftInverse f g) (k : Nat) :
    Function.LeftInverse (iterate f k) (iterate g k) := by
  simpa only [iterate_eq_natIterate] using h.iterate k

/-- All the values of a sequence made by a step, up to a last one. -/
theorem map_sequence_eq_map_iterate {f : Word → Word} {k : Nat} {x : Word} {c : Nat → Word} (h0 : c 0 = x)
    (h : ∀ j < k, c (j + 1) = f (c j)) : (List.range (k + 1)).map c = (List.range (k + 1)).map (iterate f · x) := by
  refine List.map_congr_left fun i hi => (iterate_eq_sequence f i x c h0 fun j hj => h j ?_).symm
  have := List.mem_range.mp hi
  omega

theorem genfStep_of_bit0_set (p : Word) {c : Word} (h : c.getLsbD 0 = true) : genfStep p c = (c >>> 1) ^^^ p :=
  if_pos h

theorem genfStep_of_bit0_clear (p : Word) {c : Word} (h : c.getLsbD 0 = false) : genfStep p c = c >>> 1 :=
  if_neg (by rw [h]; exact Bool.false_ne_true)

theorem genrStep_of_bit31_set (p : Word) {c : Word} (h : c.getLsbD 31 = true) :
    genrStep p c = ((c ^^^ p) <<< 1) ||| 1#32 :=
  if_pos h

theorem genrStep_of_bit31_clear (p : Word) {c : Word} (h : c.getLsbD 31 = false) : genrStep p c = c <<< 1 :=
  if_neg (by rw [h]; exact Bool.false_ne_true)

/-- No polynomial goes into a word whose `k` lowest bits are zero: `k` iterations only shift it. -/
theorem iterate_genfStep_of_lowBits_clear (p : Word) {k : Nat} {c : Word} (h : ∀ j < k, c.getLsbD j = false) :
    iterate (genfStep p) k c = c >>> k := by
  induction k generalizing c with
  | zero => simp [iterate]
  | succ k ih =>
    rw [iterate, genfStep_of_bit0_clear p (h 0 (by omega)), ih, ← BitVec.shiftRight_add, Nat.add_comm]
    intro j hj
    simpa [Nat.add_comm] using h (j + 1) (by omega)

/-- No polynomial goes into a word whose `k` highest bits are zero: `k` iterations only shift it. -/
theorem iterate_genrStep_of_highBits_clear (p : Word) {k : Nat} {c : Word}
    (h : ∀ j < 32, 32 ≤ j + k → c.getLsbD j = false) : iterate (genrStep p) k c = c <<< k := by
  induction k generalizing c with
  | zero => simp [iterate]
  | succ k ih =>
    rw [iterate, genrStep_of_bit31_clear p (h 31 (by omega) (by omega)), ih, ← BitVec.shiftLeft_add, Nat.add_comm]
    intro j hj hk
    simp [h (j - 1) (by omega) (by omega)]

/-- The low byte of a word shifted left by eight is zero. -/
@[simp] theorem lo8_shiftLeft8 (s : Word) : lo8 (s <<< 8) = 0#8 := by
  simp only [lo8]; ext i hi; simp [hi]

/-- A widened byte shifted right by eight is zero. -/
@[simp] theorem zext32_shiftRight8 (b : Byte) : zext32 b >>> 8 = 0#32 := by
  simp only [zext32]; ext i hi; simp

/-- A word is its low byte and the rest. -/
theorem lowByte_xor_rest (r : Word) : zext32 (lo8 r) ^^^ (r >>> 8) <<< 8 = r := by
  rw [shiftRight8_shiftLeft8, BitVec.xor_comm r, xor_cancel_left]

/-- A word is its high byte and the rest. -/
theorem highByte_xor_rest (s : Word) : zext32 (hi8 s) <<< 24 ^^^ (s <<< 8) >>> 8 = s := by
  rw [shiftLeft8_shiftRight8, BitVec.xor_comm s, xor_cancel_left]

/-- Eight forward iterations on a whole word: the low byte selects a table word, the rest is shifted (the shape of R70). -/
theorem iterate_genfStep_eight (p r : Word) : iterate (genfStep p) 8 r = (r >>> 8) ^^^ genf p (lo8 r) := by
  have rest : iterate (genfStep p) 8 ((r >>> 8) <<< 8) = r >>> 8 := by
    rw [iterate_genfStep_of_lowBits_clear p fun j hj => by simp [hj], shiftLeft8_shiftRight8]
    simp
  calc iterate (genfStep p) 8 r
      = iterate (genfStep p) 8 (zext32 (lo8 r) ^^^ (r >>> 8) <<< 8) := by rw [lowByte_xor_rest]
    _ = genf p (lo8 r) ^^^ r >>> 8 := by rw [iterate_xor _ (genfStep_xor p), rest, genf]
    _ = (r >>> 8) ^^^ genf p (lo8 r) := BitVec.xor_comm ..

/-- Eight reverse iterations on a whole word: the high byte selects a table word, the rest is shifted (the shape of R90). -/
theorem iterate_genrStep_eight (p s : Word) : iterate (genrStep p) 8 s = (s <<< 8) ^^^ genr p (hi8 s) := by
  have rest : iterate (genrStep p) 8 ((s <<< 8) >>> 8) = s <<< 8 := by
    rw [iterate_genrStep_of_highBits_clear p fun j hj hk => by simp; omega, shiftRight8_shiftLeft8]
    simp
  calc iterate (genrStep p) 8 s
      = iterate (genrStep p) 8 (zext32 (hi8 s) <<< 24 ^^^ (s <<< 8) >>> 8) := by rw [highByte_xor_rest]
    _ = genr p (hi8 s) ^^^ s <<< 8 := by rw [iterate_xor _ (genrStep_xor p), rest, genr]
    _ = (s <<< 8) ^^^ genr p (hi8 s) := BitVec.xor_comm ..

theorem shiftRight1_shiftLeft1_of_bit0_clear {c : Word} (h : c.getLsbD 0 = false) : (c >>> 1) <<< 1 = c := by
  ext i hi
  rcases i with _ | i
  · simpa using h.symm
  · simp [Nat.add_comm 1 i, BitVec.getLsbD_eq_getElem hi]

theorem shiftRight1_shiftLeft1_of_bit0_set {c : Word} (h : c.getLsbD 0 = true) : ((c >>> 1) <<< 1) ||| 1#32 = c := by
  ext i hi
  rcases i with _ | i
  · simpa using h.symm
  · simp [Nat.add_comm 1 i, BitVec.getLsbD_eq_getElem hi]

theorem shiftLeft1_shiftRight1_of_bit31_clear {c : Word} (h : c.getLsbD 31 = false) : (c <<< 1) >>> 1 = c := by
  ext i hi
  by_cases h31 : i = 31
  · subst h31
    simpa using h.symm
  · simp [show 1 + i < 32 by omega]

/-- With bit 31 of the polynomial set, the reverse iteration undoes the forward one: bit 31 of the forward value records whether the
polynomial went in. -/
theorem genrStep_leftInverse_genfStep {p : Word} (hp : p.getLsbD 31 = true) :
    Function.LeftInverse (genrStep p) (genfStep p) := by
  intro c
  cases h : c.getLsbD 0 with
  | true =>
    rw [genfStep_of_bit0_set p h, genrStep_of_bit31_set p (by simpa using hp), BitVec.xor_assoc, BitVec.xor_self,
      BitVec.xor_zero, shiftRight1_shiftLeft1_of_bit0_set h]
  | false =>
    rw [genfStep_of_bit0_clear p h, genrStep_of_bit31_clear p (by simp), shiftRight1_shiftLeft1_of_bit0_clear h]

/-- With bit 31 of the polynomial set, the forward iteration undoes the reverse one: bit 0 of the reverse value records whether the
polynomial went in, and the XOR cleared bit 31 before the shift lost it. -/
theorem genfStep_leftInverse_genrStep {p : Word} (hp : p.getLsbD 31 = true) :
    Function.LeftInverse (genfStep p) (genrStep p) := by
  intro c
  cases h : c.getLsbD 31 with
  | true =>
    have hclear : (c ^^^ p).getLsbD 31 = false := by rw [BitVec.getLsbD_xor, h, hp]; rfl
    rw [genrStep_of_bit31_set p h, genfStep_of_bit0_set p (by simp), BitVec.ushiftRight_or_distrib,
      shiftLeft1_shiftRight1_of_bit31_clear hclear, show 1#32 >>> 1 = 0#32 from rfl, BitVec.or_zero, BitVec.xor_assoc,
      BitVec.xor_self, BitVec.xor_zero]
  | false =>
    rw [genrStep_of_bit31_clear p h, genfStep_of_bit0_clear p (by simp), shiftLeft1_shiftRight1_of_bit31_clear h]

theorem poly_bit31 : Config.poly.getLsbD 31 = true := rfl

/-- The forward step is eight iterations of the generator on the register with the message byte on its low byte (R50, R70). -/
theorem crcstep_eq_iterate (r : Word) (b : Byte) :
    crcstep r b = iterate (genfStep Config.poly) 8 (r ^^^ zext32 b) := by
  rw [iterate_genfStep_eight, BitVec.ushiftRight_xor_distrib, zext32_shiftRight8, BitVec.xor_zero, ← ftab_eq_genf, crcstep,
    stepIndex]

/-- The reverse step is eight reverse iterations of the generator on the register, then the message byte (R51, R90). -/
theorem revstep_eq_iterate (s : Word) (b : Byte) :
    revstep s b = iterate (genrStep Config.poly) 8 s ^^^ zext32 b := by
  rw [iterate_genrStep_eight, ← rtab_eq_genr, revstep]

/-- The reverse step undoes the forward step (R56). -/
theorem revstep_crcstep (r : Word) (b : Byte) : revstep (crcstep r b) b = r := by
  rw [revstep_eq_iterate, crcstep_eq_iterate, iterate_leftInverse (genrStep_leftInverse_genfStep poly_bit31),
    BitVec.xor_assoc, BitVec.xor_self, BitVec.xor_zero]

/-- The forward step undoes the reverse step (R79 (c)). -/
theorem crcstep_revstep (s : Word) (b : Byte) : crcstep (revstep s b) b = s := by
  rw [crcstep_eq_iterate, revstep_eq_iterate, BitVec.xor_assoc, BitVec.xor_self, BitVec.xor_zero,
    iterate_leftInverse (genfStep_leftInverse_genrStep poly_bit31)]

end Sys2Proof.Machine
end

section
/-! PROOFS. The table generator (R50 to R53, R56, R57) and the inverse of the forward step (R79 (c)). -/

namespace Sys2Proof.Machine

/-- Settles O5: both steps are eight iterations of the generator, and at `POLY` the reverse iteration undoes the forward one. -/
theorem reverseStepUndoesForwardStep : Obligations.ReverseStepUndoesForwardStep := by
  refine fun r b => ⟨?_, revstep_crcstep r b⟩
  rintro s rfl
  simpa only [revstep, crcstep, stepIndex, ftab_eq_genf, rtab_eq_genr, Config.poly] using revstep_crcstep r b

/-- Settles O23: the two steps undo each other. -/
theorem forwardStepIsBijective : Obligations.ForwardStepIsBijective :=
  fun b => ⟨(revstep_crcstep · b), (crcstep_revstep · b)⟩

theorem genf_xor (p : Word) (a b : Byte) : genf p (a ^^^ b) = genf p a ^^^ genf p b := by
  rw [genf, zext32_xor, iterate_xor _ (genfStep_xor p), ← genf, ← genf]

theorem genr_xor (p : Word) (a b : Byte) : genr p (a ^^^ b) = genr p a ^^^ genr p b := by
  rw [genr, zext32_xor, BitVec.shiftLeft_xor_distrib, iterate_xor _ (genrStep_xor p), ← genr, ← genr]

theorem genf_zero (p : Word) : genf p 0#8 = 0#32 := by
  simpa using genf_xor p 0#8 0#8

theorem genr_zero (p : Word) : genr p 0#8 = 0#32 := by
  simpa using genr_xor p 0#8 0#8

/-- Settles O6: each iteration is linear, so eight of them are. -/
theorem generatorsAreLinearOverXor : Obligations.GeneratorsAreLinearOverXor :=
  ⟨fun p a b => ⟨genf_xor p a b, genr_xor p a b, genf_zero p, genr_zero p⟩, by decide, by decide⟩

/-- Settles O1: the iterates are such a sequence, and any such sequence is the iterates. -/
theorem genfIsEightForwardIterations : Obligations.GenfIsEightForwardIterations := by
  refine ⟨fun p n => ⟨(iterate (genfStep p) · (zext32 n)), ⟨rfl, fun k _ => iterate_succ_last ..⟩, rfl⟩, ?_⟩
  rintro c ⟨h0, hstep⟩
  rw [map_sequence_eq_map_iterate (f := genfStep 0xEDB88320#32) h0 hstep]
  decide

/-- One iteration in the order that R51 rules out: the XOR after the shift (90_conflicts.md C1). -/
def genrStepXorLast (p c : Word) : Word :=
  if c.getLsbD 31 then ((c <<< 1) ^^^ p) ||| 1#32 else c <<< 1

/-- Settles O2: the iterates are such a sequence, and any such sequence is the iterates; so for the other order. -/
theorem genrIsEightReverseIterations : Obligations.GenrIsEightReverseIterations := by
  refine ⟨fun p n => ⟨(iterate (genrStep p) · (zext32 n <<< 24)), ⟨rfl, fun k _ => iterate_succ_last ..⟩, rfl⟩, ?_, ?_, ?_⟩
  · intro p c
    rw [shiftLeft_or_one, shiftLeft_or_one, BitVec.shiftLeft_xor_distrib, BitVec.xor_assoc]
  · rintro c ⟨h0, hstep⟩
    rw [map_sequence_eq_map_iterate (f := genrStep 0xEDB88320#32) h0 hstep]
    decide
  · intro d h0 hstep
    rw [← iterate_eq_sequence (genrStepXorLast 0xEDB88320#32) 8 0x01000000#32 d h0 hstep]
    decide

/-- Settles O3: the word is the command's encoding, and the command responds on the port alone. -/
theorem genfCompletes : Obligations.GenfCompletes := by
  refine ⟨fun n => by rw [← encode_genf, decode_encode], fun n s => exec_eq (.genf n) s, ?_⟩
  decide

/-- Settles O4: the word is the command's encoding, and the command responds on the port alone. -/
theorem genrCompletes : Obligations.GenrCompletes := by
  refine ⟨fun n => by rw [← encode_genr, decode_encode], fun n s => exec_eq (.genr n) s, ?_⟩
  decide

end Sys2Proof.Machine
end

section
/-! SUPPORT. The words of the two tables at `POLY`: each is one step of the datapath from a bare index, so that the inverse steps tie
the reverse table to the forward one (R58). -/

namespace Sys2Proof.Machine

/-- The forward step from a register that holds an index alone reads the table word of that index (R70). -/
theorem crcstep_zext32_zero (i : Byte) : crcstep (zext32 i) 0#8 = ftab i := by
  simp [crcstep, stepIndex_eq]

/-- The reverse step with the zero byte is the shift and the table word (R90). -/
theorem revstep_zero (s : Word) : revstep s 0#8 = (s <<< 8) ^^^ rtab (hi8 s) := by
  simp [revstep]

/-- R58 (b): the reverse step takes a forward table word back to its index. -/
theorem rtab_hi8_ftab (i : Byte) : rtab (hi8 (ftab i)) = (ftab i <<< 8) ^^^ zext32 i := by
  have back : (ftab i <<< 8) ^^^ rtab (hi8 (ftab i)) = zext32 i := by
    rw [← revstep_zero, ← crcstep_zext32_zero, revstep_crcstep]
  rw [← back, xor_cancel_left]

/-- The low byte of a reverse table word names the forward entry whose top byte selects it (R58). -/
theorem lo8_rtab_hi8_ftab (i : Byte) : lo8 (rtab (hi8 (ftab i))) = i := by
  simp [rtab_hi8_ftab, lo8_xor]

/-- R58 (a): the index can be read back from the top byte. -/
theorem hi8_ftab_injective : Function.Injective (hi8 ∘ ftab) :=
  Function.LeftInverse.injective (g := lo8 ∘ rtab) lo8_rtab_hi8_ftab

/-- R58 (a): a forward table word for every top byte. -/
theorem hi8_ftab_surjective : Function.Surjective (hi8 ∘ ftab) :=
  Finite.surjective_of_injective hi8_ftab_injective

/-- The ROM read and the generator do the same on the block (R60, R65). -/
theorem Block.execute_lutf (blk : Block) (i : Byte) : blk.execute (.lutf i) = blk.execute (.genf i) := by
  simp only [Block.execute_eq, ftab_eq_genf]

/-- The ROM read and the generator do the same on the block (R61, R65). -/
theorem Block.execute_lutr (blk : Block) (i : Byte) : blk.execute (.lutr i) = blk.execute (.genr i) := by
  simp only [Block.execute_eq, rtab_eq_genr]

end Sys2Proof.Machine
end

section
/-! PROOFS. The structure of the reverse table (R58) and the table ROM (R60 to R63, R65). -/

namespace Sys2Proof.Machine

/-- Settles O7: the reverse step undoes the forward step from a bare index, which gives the reverse words; their low bytes give the
indices back, so no two top bytes are equal and, the bytes being finite, every byte is one. -/
theorem reverseTableMirrorsForwardTable : Obligations.ReverseTableMirrorsForwardTable :=
  ⟨fun _ _ h => hi8_ftab_injective h, hi8_ftab_surjective, rtab_hi8_ftab⟩

/-- Settles O8: the listing, word by word. -/
theorem forwardRomHoldsGeneratorOutputs : Obligations.ForwardRomHoldsGeneratorOutputs :=
  ftab_eq_genf

/-- Settles O9: the listing, word by word. -/
theorem reverseRomHoldsGeneratorOutputs : Obligations.ReverseRomHoldsGeneratorOutputs :=
  rtab_eq_genr

/-- Settles O10: the word is the command's encoding, and the command responds on the port alone. -/
theorem lutfCompletes : Obligations.LutfCompletes := by
  refine ⟨fun i => by rw [← encode_lutf, decode_encode], fun i s => exec_eq (.lutf i) s, ?_⟩
  decide

/-- Settles O11: the word is the command's encoding, and the command responds on the port alone. -/
theorem lutrCompletes : Obligations.LutrCompletes := by
  refine ⟨fun i => by rw [← encode_lutr, decode_encode], fun i s => exec_eq (.lutr i) s, ?_⟩
  decide

/-- Settles O12: each pair of commands has one effect on the block, and the port completes it alike. -/
theorem romReadsEqualGeneratorReads : Obligations.RomReadsEqualGeneratorReads := by
  intro i s
  simp only [exec_eq, Block.execute_lutf, Block.execute_lutr, and_self]

end Sys2Proof.Machine
end

section
/-! SUPPORT. A word put together from an operation code and a byte, decoded (R36, R39, R41). -/

namespace Sys2Proof.Machine

/-- An operation code with any byte below it decodes as `decodeOp` says: the reserved field is zero (R36, R41). -/
theorem decode_assembled (op : BitVec 4) (arg : Byte) :
    decode ((op.setWidth 16 <<< 12) ||| arg.setWidth 16) = decodeOp op arg := by
  rw [decode, Laws.fieldsOf_assembled]
  rfl

end Sys2Proof.Machine
end

section
/-! SUPPORT. The forward step (R70) and the recurrence over a buffer (R74). -/

namespace Sys2Proof.Machine

/-- The byte of a word at a bit position is the low byte once the word is shifted down to it. -/
theorem lo8_shiftRight (r : Word) (k : Nat) : lo8 (r >>> k) = r.extractLsb' k 8 := by
  simp only [lo8]; ext i hi; simp

/-- The message byte only enters through the low byte of the register (R79 (b)). -/
theorem crcstep_eq_crcstep_zero (r : Word) (b : Byte) : crcstep r b = crcstep (r ^^^ zext32 b) 0#8 := by
  rw [crcstep_eq_iterate, crcstep_eq_iterate, zext32_zero, BitVec.xor_zero]

/-- The forward step is linear over XOR, as each of its eight iterations is (R79 (a)). -/
theorem crcstep_xor (r1 r2 : Word) (b1 b2 : Byte) :
    crcstep (r1 ^^^ r2) (b1 ^^^ b2) = crcstep r1 b1 ^^^ crcstep r2 b2 := by
  have regroup : r1 ^^^ r2 ^^^ (zext32 b1 ^^^ zext32 b2) = r1 ^^^ zext32 b1 ^^^ (r2 ^^^ zext32 b2) := by ac_rfl
  simp only [crcstep_eq_iterate]
  rw [zext32_xor, regroup, iterate_xor _ (genfStep_xor _)]

@[simp] theorem ftab_zero : ftab 0#8 = 0#32 := by
  rw [ftab_eq_genf, genf_zero]

theorem crcstep_zero : crcstep 0#32 0#8 = 0#32 := by
  simpa using crcstep_zext32_zero 0#8

/-- A register sent its own low byte is shifted: the table word is the zero word (R72). -/
@[simp] theorem crcstep_lo8 (r : Word) : crcstep r (lo8 r) = r >>> 8 := by
  simp [crcstep, stepIndex_eq]

/-- The new top byte is the table word's alone (R72). -/
theorem hi8_crcstep (r : Word) (b : Byte) : hi8 (crcstep r b) = hi8 (ftab (lo8 r ^^^ b)) := by
  rw [crcstep, hi8_xor, hi8_shiftRight8, BitVec.zero_xor, stepIndex_eq]

/-- The four bytes of a word, each as the low byte of what the shifts before it leave. -/
theorem le4_eq_lo8 (r : Word) : le4 r = [lo8 r, lo8 (r >>> 8), lo8 (r >>> 8 >>> 8), lo8 (r >>> 8 >>> 8 >>> 8)] := by
  simp only [← BitVec.shiftRight_add, lo8_shiftRight]
  rfl

/-- Each byte of its own shifts the register by eight, and four such shifts leave nothing (R79 (d)). -/
theorem crcFrom_le4 (r : Word) : crcFrom r (le4 r) = 0#32 := by
  have shiftedOut : r >>> 32 = 0#32 := BitVec.ushiftRight_eq_zero le_rfl
  simp [crcFrom, le4_eq_lo8, shiftedOut]

/-- The recurrence takes the last byte last (R74). -/
theorem rawcrc_append_singleton (buf : List Byte) (b : Byte) : rawcrc (buf ++ [b]) = crcstep (rawcrc buf) b :=
  List.foldl_concat ..

/-- The final XOR is the complement (R73). -/
theorem xor_xorout (r : Word) : r ^^^ Config.xorout = ~~~r :=
  BitVec.xor_allOnes

end Sys2Proof.Machine
end

section
/-! SUPPORT. Words that do not write `REG` do not matter to the block (R10, R75), and a message among such words leaves the
recurrence over its bytes. -/

namespace Sys2Proof.Machine

/-- A word that is neither `INIT` nor `UPD` leaves the block (R10). -/
theorem Block.step_of_not_writesReg (blk : Block) {w : CmdWord} (h : writesReg w = false) : (blk.step w).1 = blk := by
  cases hd : decode w with
  | error c => simp [Block.step, hd]
  | ok i =>
    obtain rfl := encode_of_decode hd
    rw [Block.step_encode, Block.execute_eq]
    cases i with
    | init | upd => simp [writesReg, hd] at h
    | genf | genr | lutf | lutr | fin => rfl

/-- The block after a list of words is the block after those of them that write `REG`. -/
theorem Block.run_filter_writesReg (blk : Block) (ws : List CmdWord) :
    (blk.run (ws.filter writesReg)).1 = (blk.run ws).1 := by
  induction ws generalizing blk with
  | nil => rfl
  | cons w ws ih =>
    cases hw : writesReg w with
    | true => simp [hw, Block.run, ih]
    | false => simp [hw, Block.run, ih, Block.step_of_not_writesReg blk hw]

theorem Block.run_length (blk : Block) (ws : List CmdWord) : (blk.run ws).2.length = ws.length := by
  induction ws generalizing blk with
  | nil => rfl
  | cons w ws ih => simp [Block.run, ih]

/-- `INIT` and the `UPD`s of a message leave the recurrence over its bytes, whatever `REG` was (R74, R75). -/
theorem Block.run_messageCommands (blk : Block) (buf : List Byte) :
    (blk.run (messageCommands buf)).1 = ⟨rawcrc buf⟩ := by
  simp [messageCommands, Block.run, Block.run_updates, Block.execute, rawcrc]

theorem Block.run_of_carriesMessage (blk : Block) {buf : List Byte} {ws : List CmdWord} (h : CarriesMessage buf ws) :
    (blk.run ws).1 = ⟨rawcrc buf⟩ := by
  rw [← Block.run_filter_writesReg, h, Block.run_messageCommands]

end Sys2Proof.Machine
end

section
/-! PROOFS. The forward datapath (R70 to R76, R78, R79). -/

namespace Sys2Proof.Machine

/-- Settles O20: only the message's words count for the register, and `FIN` reads the register out. -/
theorem messageCommandsComputeCrc32 : Obligations.MessageCommandsComputeCrc32 := by
  intro buf ws s h
  have block := Block.run_of_carriesMessage s.toBlock h
  refine ⟨_, runCommands_eq_block_run ws s, congrArg Block.reg block, rfl, ?_, ?_⟩
  · simp [Block.run_length]
  · rw [← encode_fin, runCommands_eq_block_run, Block.run_append]
    simp [block, Block.run, Block.execute, crc32]

/-- Settles O22: the step is eight linear iterations on the register with the byte XORed in. -/
theorem forwardStepIsLinearOverXor : Obligations.ForwardStepIsLinearOverXor :=
  ⟨crcstep_xor, crcstep_zero, crcstep_eq_crcstep_zero⟩

/-- Settles O24: each of its own bytes shifts the register by eight. -/
theorem registerCancelsItsOwnBytes : Obligations.RegisterCancelsItsOwnBytes :=
  fun r => ⟨crcFrom_le4 r, rfl⟩

/-- Settles O14: the definition, with the index's two forms and the logical shift. -/
theorem forwardStepIsShiftAndTableWord : Obligations.ForwardStepIsShiftAndTableWord :=
  fun r b => ⟨rfl, stepIndex_eq r b, hi8_shiftRight8 r⟩

/-- After `INIT` the register is the initial value, whatever the state was (R71). -/
theorem reg_of_exec_init {s t : State} (h : exec .init s = .next t) : t.reg = Config.initv := by
  rw [exec_eq] at h
  cases h
  rfl

/-- Settles O15: the word is the command's encoding, and what `INIT` loads does not depend on the state. -/
theorem initCompletes : Obligations.InitCompletes := by
  refine ⟨decode_encode .init, fun x hx => ?_, fun s => exec_eq .init s, ?_, ?_⟩
  · have word : decode (0x5000#16 ||| x.setWidth 16) = decodeZ x .init := decode_assembled 0x5#4 x
    rw [word]
    exact (decodeZ_error_iff x .init).mpr hx
  · exact fun s t u hst htu => (reg_of_exec_init htu).trans (reg_of_exec_init hst).symm
  · exact fun t ht => reg_of_exec_init ht

/-- Settles O16: the word is the command's encoding, and `UPD` is one forward step. -/
theorem updCompletes : Obligations.UpdCompletes := by
  refine ⟨fun b => by rw [← encode_upd, decode_encode], fun b s => exec_eq (.upd b) s, hi8_crcstep, crcstep_lo8, ?_⟩
  decide

/-- Settles O17: the word is the command's encoding, and `FIN` leaves the register it reads out. -/
theorem finCompletes : Obligations.FinCompletes := by
  refine ⟨decode_encode .fin, fun x hx => ?_, fun s => exec_eq .fin s, xor_xorout, fun s => ?_, fun s => ?_, by rfl⟩
  · have word : decode (0x7000#16 ||| x.setWidth 16) = decodeZ x .fin := decode_assembled 0x7#4 x
    rw [word]
    exact (decodeZ_error_iff x .fin).mpr hx
  · rw [← encode_fin, runCommands_eq_block_run]
    simp [Block.run, Block.execute, xor_xorout]
  · rw [← encode_init, ← encode_fin, runCommands_eq_block_run]
    simp [Block.run, Block.execute, Config.initv, Config.xorout]

/-- Settles O18: the recurrence from the initial value, and the final XOR. -/
theorem crc32IsRecurrenceWithFinalXor : Obligations.Crc32IsRecurrenceWithFinalXor :=
  ⟨rfl, rawcrc_append_singleton, fun _ => rfl⟩

/-- Settles O19: the two buffers, evaluated. -/
theorem crc32KnownVectors : Obligations.Crc32KnownVectors := by
  unfold Obligations.Crc32KnownVectors
  decide

/-- Settles O21: the final XOR undoes itself. -/
theorem finResponseRevealsRegister : Obligations.FinResponseRevealsRegister :=
  fun s => ⟨s.reg ^^^ Config.xorout, exec_eq .fin s, by
    rw [BitVec.xor_assoc, Config.xorout, BitVec.xor_self, BitVec.xor_zero]⟩

end Sys2Proof.Machine
end

section
/-! SUPPORT. The recurrence over a buffer and the reverse steps over it undo each other (R79 (c), R90), and a register and the four
bytes sent to it change places (R95). -/

namespace Sys2Proof.Machine

theorem crcFrom_append (r : Word) (a b : List Byte) : crcFrom r (a ++ b) = crcFrom (crcFrom r a) b :=
  List.foldl_append ..

theorem rawcrc_append (a b : List Byte) : rawcrc (a ++ b) = crcFrom (rawcrc a) b :=
  crcFrom_append ..

/-- The reverse steps take the last bytes first (R90). -/
theorem revFrom_append (t : Word) (a b : List Byte) : revFrom t (a ++ b) = revFrom (revFrom t b) a :=
  List.foldr_append ..

/-- The reverse steps over a buffer as steps forward through its bytes in the order in which they are taken. -/
theorem revFrom_eq_foldl_reverse (t : Word) (bs : List Byte) : revFrom t bs = bs.reverse.foldl revstep t :=
  List.foldl_reverse.symm

theorem revFrom_crcFrom (r : Word) (bs : List Byte) : revFrom (crcFrom r bs) bs = r := by
  induction bs generalizing r with
  | nil => rfl
  | cons b bs ih =>
    calc revstep (revFrom (crcFrom (crcstep r b) bs) bs) b
        = revstep (crcstep r b) b := by rw [ih]
      _ = r := revstep_crcstep r b

theorem crcFrom_revFrom (t : Word) (bs : List Byte) : crcFrom (revFrom t bs) bs = t := by
  induction bs with
  | nil => rfl
  | cons b bs ih =>
    calc crcFrom (crcstep (revstep (revFrom t bs) b) b) bs
        = crcFrom (revFrom t bs) bs := by rw [crcstep_revstep]
      _ = t := ih

/-- The register from which a buffer leads to a given one is what the backward pass holds (R95). -/
theorem crcFrom_eq_iff {r t : Word} {bs : List Byte} : crcFrom r bs = t ↔ r = revFrom t bs :=
  ⟨fun h => by rw [← h, revFrom_crcFrom], fun h => by rw [h, crcFrom_revFrom]⟩

theorem crcFrom_injective (bs : List Byte) : Function.Injective (crcFrom · bs) :=
  Function.LeftInverse.injective (g := (revFrom · bs)) (revFrom_crcFrom · bs)

/-- Two bytes that lead one register to the same next one are the same byte (R79 (b), (c)). -/
theorem crcstep_byte_injective (r : Word) : Function.Injective (crcstep r) := by
  intro b c h
  rw [crcstep_eq_crcstep_zero r b, crcstep_eq_crcstep_zero r c] at h
  have same := congrArg (revstep · 0#8) h
  simp only [revstep_crcstep, BitVec.xor_right_inj] at same
  simpa using congrArg lo8 same

/-- Four bytes at once are linear over XOR (R79 (a)). -/
theorem crcFrom_le4_xor (r1 r2 x1 x2 : Word) :
    crcFrom (r1 ^^^ r2) (le4 (x1 ^^^ x2)) = crcFrom r1 (le4 x1) ^^^ crcFrom r2 (le4 x2) := by
  simp [crcFrom, le4_eq_lo8, BitVec.ushiftRight_xor_distrib, lo8_xor, crcstep_xor]

/-- R95: a word sent to a register acts as an XOR on it before four zero bytes. -/
theorem crcFrom_le4_eq (r x : Word) : crcFrom r (le4 x) = crcFrom (r ^^^ x) (le4 0#32) := by
  have split := crcFrom_le4_xor (r ^^^ x) x 0#32 x
  rw [crcFrom_le4, BitVec.xor_zero, BitVec.zero_xor, BitVec.xor_assoc, BitVec.xor_self, BitVec.xor_zero] at split
  exact split

/-- R95: a register and the word sent to it change places. -/
theorem crcFrom_le4_comm (r x : Word) : crcFrom r (le4 x) = crcFrom x (le4 r) := by
  rw [crcFrom_le4_eq r x, crcFrom_le4_eq x r, BitVec.xor_comm]

theorem crc32_eq_iff {buf : List Byte} {target : Word} : crc32 buf = target ↔ rawcrc buf = target ^^^ Config.xorout := by
  rw [crc32, ← BitVec.xor_left_inj (x := rawcrc buf) Config.xorout, BitVec.xor_assoc target, BitVec.xor_self,
    BitVec.xor_zero]

/-- A sequence made by forward steps over a buffer ends where the recurrence does (R88). -/
theorem crcFrom_eq_of_sequence {bs : List Byte} {c : Nat → Word}
    (h : ∀ (i : Nat) (b : Byte), bs[i]? = some b → c (i + 1) = crcstep (c i) b) : crcFrom (c 0) bs = c bs.length := by
  induction bs generalizing c with
  | nil => rfl
  | cons b bs ih =>
    calc crcFrom (crcstep (c 0) b) bs
        = crcFrom (c 1) bs := by rw [h 0 b rfl]
      _ = c (bs.length + 1) := ih (c := fun i => c (i + 1)) fun i b' hb => h (i + 1) b' hb

/-- A sequence made by reverse steps down a buffer ends where the backward pass does (R90). -/
theorem revFrom_eq_of_sequence {bs : List Byte} {d : Nat → Word}
    (h : ∀ (i : Nat) (b : Byte), bs[i]? = some b → d i = revstep (d (i + 1)) b) : revFrom (d bs.length) bs = d 0 := by
  induction bs generalizing d with
  | nil => rfl
  | cons b bs ih =>
    calc revstep (revFrom (d (bs.length + 1)) bs) b
        = revstep (d 1) b := by rw [ih (d := fun i => d (i + 1)) fun i b' hb => h (i + 1) b' hb]
      _ = d 0 := (h 0 b rfl).symm

end Sys2Proof.Machine
end

section
/-! SUPPORT. The patch window: the two buffers' agreement outside it, the patch value, and what FIXCRC gives (R88 to R95). -/

namespace Sys2Proof.Machine

/-- Agreement outside the window is agreement of the lengths and of the bytes before and after it. -/
theorem agreeOutsideWindow_iff {p : Nat} {buf buf' : List Byte} :
    AgreeOutsideWindow p buf buf' ↔
      buf'.length = buf.length ∧ buf'.take p = buf.take p ∧ buf'.drop (p + 4) = buf.drop (p + 4) := by
  refine and_congr_right fun _ => ⟨fun h => ⟨?_, ?_⟩, ?_⟩
  · refine List.ext_getElem? fun i => ?_
    simp only [List.getElem?_take]
    split
    · exact h i (.inl ‹_›)
    · rfl
  · refine List.ext_getElem? fun i => ?_
    simp only [List.getElem?_drop]
    exact h (p + 4 + i) (.inr (Nat.le_add_right ..))
  · rintro ⟨hbefore, hafter⟩ i (hi | hi)
    · simpa [List.getElem?_take, hi] using congrArg (·[i]?) hbefore
    · simpa [List.getElem?_drop, Nat.add_sub_cancel' hi] using congrArg (·[i - (p + 4)]?) hafter

/-- A window that fits, filled with a word: the buffer agrees with the one before outside the window. -/
theorem agreeOutsideWindow_of_word {buf : List Byte} {p : Nat} (x : Word) (h : p + 4 ≤ buf.length) :
    AgreeOutsideWindow p buf (buf.take p ++ le4 x ++ buf.drop (p + 4)) := by
  have hp : (buf.take p).length = p := List.length_take_of_le (by omega)
  have hpx : (buf.take p ++ le4 x).length = p + 4 := by simp [le4]; omega
  refine agreeOutsideWindow_iff.mpr ⟨?_, by rw [List.append_assoc, List.take_left' hp], List.drop_left' hpx⟩
  rw [← memWrite4_at x h, memWrite4_length]

/-- The patch value, from the bytes before and after the window and the target: the backward pass over the suffix, then over the
placeholder (R90, R94). -/
def patchValue (before after : List Byte) (target : Word) : Word :=
  revFrom (target ^^^ Config.xorout) (le4 (rawcrc before) ++ after)

/-- The patch value is what the backward pass over the buffer with its placeholder holds at the window (R89, R90). -/
theorem backwardPass_placeholder (before after : List Byte) (target : Word) :
    backwardPass (before ++ le4 (rawcrc before) ++ after) before.length target = patchValue before after target := by
  rw [backwardPass, List.append_assoc, List.drop_left, patchValue]

/-- R95: with the placeholder in the window, register and window change places, so that the backward pass finds the one word that
leads to the target. -/
theorem crc32_window_eq_iff (before after : List Byte) (target x : Word) :
    crc32 (before ++ le4 x ++ after) = target ↔ x = patchValue before after target := by
  rw [crc32_eq_iff, List.append_assoc, rawcrc_append, crcFrom_append, crcFrom_le4_comm, ← crcFrom_append, crcFrom_eq_iff,
    patchValue]

/-- The placeholder and the final write as one replacement of the window (R89, R91). -/
theorem patch_eq {buf : List Byte} {p : Nat} (target : Word) (h : p + 4 ≤ buf.length) :
    patch buf p target =
      buf.take p ++ le4 (patchValue (buf.take p) (buf.drop (p + 4)) target) ++ buf.drop (p + 4) := by
  have hp : (buf.take p).length = p := List.length_take_of_le (by omega)
  have back := backwardPass_placeholder (buf.take p) (buf.drop (p + 4)) target
  have write := memWrite4_eq (buf.take p) (le4 (rawcrc (buf.take p))) (buf.drop (p + 4))
    (patchValue (buf.take p) (buf.drop (p + 4)) target) rfl
  rw [hp] at back write
  simp only [patch, memWrite4_at _ h, forwardPass, back, write]

/-- A rejected call leaves the buffer (R87, R102). -/
theorem fixcrc_of_rejected {buf : List Byte} {fixPos : Int} (target : Word) (h : validate buf.length fixPos = none) :
    fixcrc buf target fixPos = (.invalidLength, buf) := by
  simp [fixcrc, h]

/-- An accepted call patches the buffer at the validated offset (R92). -/
theorem fixcrc_of_accepted {buf : List Byte} {fixPos : Int} {p : Nat} (target : Word)
    (h : validate buf.length fixPos = some p) : fixcrc buf target fixPos = (.success p, patch buf p target) := by
  simp [fixcrc, h]

/-- A call succeeds where the validation passes, and nowhere else (R87, R92). -/
theorem fixcrc_eq_success_iff {buf patched : List Byte} {target : Word} {fixPos : Int} {p : Nat} :
    fixcrc buf target fixPos = (.success p, patched) ↔
      validate buf.length fixPos = some p ∧ patched = patch buf p target := by
  cases hv : validate buf.length fixPos with
  | none => simp [fixcrc_of_rejected target hv]
  | some q =>
    rw [fixcrc_of_accepted target hv, Prod.mk.injEq, FixResult.success.injEq, Option.some.injEq]
    constructor <;> rintro ⟨rfl, rfl⟩ <;> exact ⟨rfl, rfl⟩

/-- R93 (a): the patched buffer has the target for its checksum. -/
theorem crc32_patch {buf : List Byte} {p : Nat} (target : Word) (h : p + 4 ≤ buf.length) :
    crc32 (patch buf p target) = target := by
  rw [patch_eq target h]
  exact (crc32_window_eq_iff ..).mpr rfl

/-- R93 (b): the patched buffer agrees with the one before outside the window. -/
theorem patch_agreeOutsideWindow {buf : List Byte} {p : Nat} (target : Word) (h : p + 4 ≤ buf.length) :
    AgreeOutsideWindow p buf (patch buf p target) := by
  rw [patch_eq target h]
  exact agreeOutsideWindow_of_word _ h

/-- R94: FIXCRC does not see what is in the window. -/
theorem fixcrc_congr {buf buf' : List Byte} {target : Word} {fixPos : Int} {p : Nat}
    (hv : validate buf.length fixPos = some p) (h : AgreeOutsideWindow p buf buf') :
    fixcrc buf' target fixPos = fixcrc buf target fixPos := by
  obtain ⟨hlen, hbefore, hafter⟩ := agreeOutsideWindow_iff.mp h
  obtain ⟨-, -, hfits⟩ := validate_some hv
  rw [fixcrc_of_accepted target hv, fixcrc_of_accepted target (hlen ▸ hv), patch_eq target hfits,
    patch_eq target (hlen ▸ hfits), hbefore, hafter]

/-- Two buffers that agree outside the window and in it are one. -/
theorem eq_of_agreeOutsideWindow {p : Nat} {buf buf' : List Byte} (h : AgreeOutsideWindow p buf buf')
    (hwindow : (buf'.drop p).take 4 = (buf.drop p).take 4) : buf' = buf := by
  obtain ⟨-, hbefore, hafter⟩ := agreeOutsideWindow_iff.mp h
  rw [buffer_eq_window buf' p, hbefore, hwindow, hafter, ← buffer_eq_window]

/-- A byte write outside the window leaves the bytes in it. -/
theorem window_set {p j : Nat} (buf : List Byte) (v : Byte) (h : j < p ∨ p + 4 ≤ j) :
    ((buf.set j v).drop p).take 4 = (buf.drop p).take 4 := by
  rw [List.drop_set]
  split
  · rfl
  · exact List.take_set_of_le (by omega)

end Sys2Proof.Machine
end

section
/-! PROOFS. The offset (R86) and FIXCRC as a function on a buffer (R88 to R95, V3). -/

namespace Sys2Proof.Machine

theorem normalise_cast {len : Nat} (fixPos : Int) (h : 0 < len) : (normalise len fixPos : Int) = fixPos % len :=
  Int.toNat_of_nonneg (Int.emod_nonneg _ (by omega))

theorem doubleModulo_fmod (len : Nat) (fixPos : Int) : doubleModulo Int.fmod len fixPos = fixPos % len := by
  have floored (x : Int) : x.fmod len = x % len := Int.fmod_eq_emod_of_nonneg x (by omega)
  simp [doubleModulo, floored]

/-- The truncated remainder is above `-len`, so that the sum of the formula is not negative and its second `%` is the floored one. -/
theorem doubleModulo_tmod {len : Nat} (fixPos : Int) (h : 0 < len) : doubleModulo Int.tmod len fixPos = fixPos % len := by
  have above : -(len : Int) < fixPos.tmod len := Int.lt_tmod_of_pos fixPos (by omega)
  rw [doubleModulo, Int.tmod_eq_emod_of_nonneg (by omega), Int.add_emod_right, Int.tmod_def, Int.sub_mul_emod_self_left]

/-- Settles O46: the floored modulo is in range and congruent, and either reading of `%` gives it. -/
theorem doubleModuloNormalisesOffset : Obligations.DoubleModuloNormalisesOffset := by
  refine ⟨fun len fixPos h => ?_, by decide⟩
  have range : fixPos % (len : Int) < len := Int.emod_lt_of_pos _ (by omega)
  have cast := normalise_cast fixPos h
  refine ⟨by omega, ?_, ?_, ?_⟩
  · rw [cast]; exact Int.dvd_emod_sub_self
  · rw [cast, doubleModulo_tmod fixPos h]
  · rw [cast, doubleModulo_fmod]

/-- Settles O49: the given sequences are the recurrence over the bytes before the window and the backward pass over the held buffer. -/
theorem fixcrcFollowsItsThreeSteps : Obligations.FixcrcFollowsItsThreeSteps := by
  rintro buf held target fixPos p c d hv hc0 hc hheld hd0 hd
  obtain ⟨-, -, hfits⟩ := validate_some hv
  have hp : (buf.take p).length = p := List.length_take_of_le (by omega)
  have forward : rawcrc (buf.take p) = c p := by
    rw [rawcrc, show Config.initv = c 0 from hc0.symm, crcFrom_eq_of_sequence fun i b hb => ?_, hp]
    obtain ⟨hi, hb⟩ : i < p ∧ buf[i]? = some b := by simpa [List.getElem?_take] using hb
    exact hc i b hi hb
  have hplaceholder : held.drop p = le4 (rawcrc (buf.take p)) ++ buf.drop (p + 4) := by
    rw [hheld, forward, List.append_assoc, List.drop_left' hp]
    rfl
  have hlen : p + (held.drop p).length = buf.length := by
    rw [hplaceholder]
    simp [le4]
    omega
  have backward : patchValue (buf.take p) (buf.drop (p + 4)) target = d p := by
    rw [patchValue, ← hplaceholder, show target ^^^ Config.xorout = d (p + (held.drop p).length) from hlen ▸ hd0.symm]
    refine revFrom_eq_of_sequence (d := fun i => d (p + i)) fun i b hb => ?_
    exact hd (p + i) b (Nat.le_add_right ..) (by rwa [List.getElem?_drop] at hb)
  rw [fixcrc_of_accepted target hv, patch_eq target hfits, backward]
  rfl

/-- Settles O50: the call is accepted, and the patch value is the word that leads to the target. -/
theorem fixcrcReachesTargetInsideWindow : Obligations.FixcrcReachesTargetInsideWindow := by
  intro buf target fixPos h4 hwindow
  have cast := normalise_cast fixPos (show 0 < buf.length by omega)
  have hfits : normalise buf.length fixPos + 4 ≤ buf.length := by omega
  exact ⟨_, _, fixcrc_of_accepted target (validate_of_fits h4 hfits), cast, crc32_patch target hfits,
    patch_agreeOutsideWindow target hfits⟩

/-- Settles O51: the result depends on the bytes outside the window, which the first call leaves, and on the normalised offset. -/
theorem fixcrcIsIdempotentAndIgnoresOldWindow : Obligations.FixcrcIsIdempotentAndIgnoresOldWindow := by
  have wraps (buf : List Byte) (target : Word) (fixPos fixPos' : Int)
      (h : normalise buf.length fixPos = normalise buf.length fixPos') :
      fixcrc buf target fixPos = fixcrc buf target fixPos' := by
    simp only [fixcrc, validate, h]
  refine ⟨fun buf patched target fixPos p h => ?_, wraps, fun buf target hlen => ?_, fun _ _ _ _ _ => fixcrc_congr⟩
  · obtain ⟨hv, rfl⟩ := fixcrc_eq_success_iff.mp h
    obtain ⟨-, -, hfits⟩ := validate_some hv
    rw [fixcrc_congr hv (patch_agreeOutsideWindow target hfits), h]
  · exact wraps buf target (-4) 16 (by rw [hlen]; rfl)

/-- Settles O52: register and window change places, and the steps undo each other. -/
theorem patchValueIsUnique : Obligations.PatchValueIsUnique := by
  intro before after target x
  rw [backwardPass_placeholder, crc32_window_eq_iff]

/-- The step at the byte that differs leaves different registers, which the bytes after it keep apart. -/
theorem crc32_ne_of_byte_ne (before after : List Byte) {b c : Byte} (h : b ≠ c) :
    crc32 (before ++ b :: after) ≠ crc32 (before ++ c :: after) := by
  intro same
  rw [crc32, crc32, BitVec.xor_left_inj, rawcrc_append, rawcrc_append] at same
  exact h (crcstep_byte_injective _ (crcFrom_injective after same))

/-- Changing one byte of a buffer changes its checksum. -/
theorem crc32_set_ne {buf : List Byte} {j : Nat} {old v : Byte} (hold : buf[j]? = some old) (hv : v ≠ old) :
    crc32 (buf.set j v) ≠ crc32 buf := by
  obtain ⟨hj, rfl⟩ := List.getElem?_eq_some_iff.mp hold
  have split : buf = buf.take j ++ buf[j] :: buf.drop (j + 1) := by simp
  rw [List.set_eq_take_append_cons_drop, if_pos hj]
  conv => rhs; rw [split]
  exact crc32_ne_of_byte_ne _ _ hv

/-- Settles O53: with the old window the patched buffer would be the changed one, whose checksum is another. -/
theorem flippedByteForcesAnotherWindow : Obligations.FlippedByteForcesAnotherWindow := by
  refine ⟨fun before after b c => crc32_ne_of_byte_ne before after, ?_⟩
  intro buf patched j p v old fixPos hold hv hj h
  obtain ⟨hvalid, rfl⟩ := fixcrc_eq_success_iff.mp h
  obtain ⟨-, -, hfits⟩ := validate_some hvalid
  have target := crc32_patch (crc32 buf) hfits
  have agree := patch_agreeOutsideWindow (crc32 buf) hfits
  have outside := agree.2
  refine ⟨target, ?_, fun window => ?_⟩
  · obtain ⟨hlt, -⟩ := List.getElem?_eq_some_iff.mp hold
    rw [outside j hj, List.getElem?_set_self hlt]
  · have unchanged := eq_of_agreeOutsideWindow agree (window.trans (window_set buf v hj).symm)
    exact crc32_set_ne hold hv (unchanged ▸ target)

end Sys2Proof.Machine
end

section
/-! SUPPORT. Transactions on the host port, each and one after another, as words answered by the block (R35), and the words of the
host procedures (R97). -/

namespace Sys2Proof.Machine

/-- The state once a list of words has been presented and answered, one transaction after another: what was pending is still
pending (R35). -/
def State.answer (s : State) (ws : List CmdWord) : State where
  toBlock := (s.toBlock.run ws).1
  commands := s.commands
  responses := s.responses ++ (s.toBlock.run ws).2

@[simp] theorem State.answer_toBlock (s : State) (ws : List CmdWord) : (s.answer ws).toBlock = (s.toBlock.run ws).1 := rfl
@[simp] theorem State.answer_commands (s : State) (ws : List CmdWord) : (s.answer ws).commands = s.commands := rfl
@[simp] theorem State.answer_responses (s : State) (ws : List CmdWord) :
    (s.answer ws).responses = s.responses ++ (s.toBlock.run ws).2 := rfl

@[simp] theorem State.answer_nil (s : State) : s.answer [] = s := by
  simp [State.answer, Block.run]

theorem State.answer_append (s : State) (a b : List CmdWord) : s.answer (a ++ b) = (s.answer a).answer b := by
  simp [State.answer, Block.run_append]

theorem State.answer_cons (s : State) (w : CmdWord) (ws : List CmdWord) : s.answer (w :: ws) = (s.answer [w]).answer ws :=
  s.answer_append [w] ws

/-- What an answered list of words does to the port and to `REG`. -/
theorem State.answer_frame {ws : List CmdWord} (s : State) {r : Word} (h : (s.toBlock.run ws).1 = ⟨r⟩) :
    (s.answer ws).commands = s.commands ∧ s.responses <+: (s.answer ws).responses ∧
      (s.answer ws).responses.length = s.responses.length + ws.length ∧ (s.answer ws).reg = r := by
  refine ⟨rfl, List.prefix_append .., ?_, congrArg Block.reg h⟩
  rw [State.answer_responses, List.length_append, Block.run_length]

/-- A transaction: the host receives the response of the block's step. -/
theorem issue_eq (w : CmdWord) (s : State) : issue w s = some ((s.toBlock.step w).2, s.answer [w]) := by
  rw [issue, step_eq_block_step (State.present_commands s w)]
  simp [State.answer, Block.run]

theorem issueAll_eq (ws : List CmdWord) (s : State) : issueAll ws s = some (s.answer ws) := by
  induction ws generalizing s with
  | nil => simp [issueAll]
  | cons w ws ih => simp [issueAll, issue_eq, ih, ← State.answer_cons]

/-- A transaction with a command that responds a value. -/
theorem issueForData_eq {i : Instr} {s : State} {v : Word} (h : (s.toBlock.execute i).2 = .data v) :
    issueForData (encode i) s = some (v, s.answer [encode i]) := by
  simp [issueForData, issue_eq, h]

/-- Transactions with commands that respond one value for each byte. -/
theorem issueAllForData_eq {mk : Byte → Instr} {v : Byte → Word}
    (h : ∀ (b : Byte) (blk : Block), (blk.execute (mk b)).2 = .data (v b)) (bs : List Byte) (s : State) :
    issueAllForData (bs.map fun b => encode (mk b)) s = some (bs.map v, s.answer (bs.map fun b => encode (mk b))) := by
  induction bs generalizing s with
  | nil => simp [issueAllForData]
  | cons b bs ih => simp [issueAllForData, issueForData_eq (h b _), ih, ← State.answer_cons]

/-- The words of the forward pass: the message, then `FIN` (R97). -/
def forwardWords (buf : List Byte) : List CmdWord := messageCommands buf ++ [encode .fin]

theorem forwardWords_length (buf : List Byte) : (forwardWords buf).length = buf.length + 2 := by
  simp [forwardWords, messageCommands]

/-- The forward pass leaves the recurrence over its bytes in `REG`: `FIN` only reads it out (R73, R75). -/
theorem Block.run_forwardWords (blk : Block) (buf : List Byte) : (blk.run (forwardWords buf)).1 = ⟨rawcrc buf⟩ := by
  simp [forwardWords, Block.run_append, Block.run_messageCommands, Block.run, Block.execute]

/-- The host's final XOR undoes that of `FIN` (R78, R97). -/
theorem rawcrcOnBlock_eq (buf : List Byte) (s : State) :
    rawcrcOnBlock buf s = some (rawcrc buf, s.answer (forwardWords buf)) := by
  have fin : ((s.answer (messageCommands buf)).toBlock.execute .fin).2 = .data (rawcrc buf ^^^ Config.xorout) := by
    simp [Block.run_messageCommands, Block.execute]
  simp [rawcrcOnBlock, crc32OnBlock, issueAll_eq, issueForData_eq fin, forwardWords, State.answer_append]

/-- The words of the backward pass over bytes in the order in which they are taken: the look-up each byte needs (R97). -/
def backwardWords : List Byte → Word → List CmdWord
  | [], _ => []
  | b :: bs, t => encode (.lutr (hi8 t)) :: backwardWords bs (revstep t b)

theorem backwardWords_length (bs : List Byte) (t : Word) : (backwardWords bs t).length = bs.length := by
  induction bs generalizing t with
  | nil => rfl
  | cons b bs ih => simp [backwardWords, ih]

/-- The backward pass leaves the block: it only looks words up (R63). -/
theorem Block.run_backwardWords (blk : Block) (bs : List Byte) (t : Word) : (blk.run (backwardWords bs t)).1 = blk := by
  induction bs generalizing t with
  | nil => rfl
  | cons b bs ih => simp [backwardWords, Block.run, Block.execute, ih]

/-- The look-ups and the host's shifts and XORs are the reverse steps (R90, R97). -/
theorem backwardOnBlock_eq (bs : List Byte) (t : Word) (s : State) :
    backwardOnBlock bs t s = some (bs.foldl revstep t, s.answer (backwardWords bs t)) := by
  induction bs generalizing t s with
  | nil => simp [backwardOnBlock, backwardWords]
  | cons b bs ih =>
    have lookup : (s.toBlock.execute (.lutr (hi8 t))).2 = .data (rtab (hi8 t)) := rfl
    simp [backwardOnBlock, issueForData_eq lookup, ih, backwardWords, revstep, ← State.answer_cons]

/-- The words of FIXCRC with the block's look-ups at a validated offset (R97). -/
def patchWords (buf : List Byte) (p : Nat) (target : Word) : List CmdWord :=
  forwardWords (buf.take p) ++
    backwardWords ((memWrite4 buf p (forwardPass buf p)).drop p).reverse (target ^^^ Config.xorout)

theorem patchOnBlock_eq (buf : List Byte) (p : Nat) (target : Word) (s : State) :
    patchOnBlock buf p target s = some (patch buf p target, s.answer (patchWords buf p target)) := by
  simp [patchOnBlock, rawcrcOnBlock_eq, backwardOnBlock_eq, patch, forwardPass, backwardPass, revFrom_eq_foldl_reverse,
    patchWords, State.answer_append]

theorem patchWords_length {buf : List Byte} {p : Nat} (target : Word) (h : p + 4 ≤ buf.length) :
    (patchWords buf p target).length = (p + 2) + (buf.length - p) := by
  simp [patchWords, forwardWords_length, backwardWords_length, List.length_take_of_le (show p ≤ buf.length by omega)]

theorem Block.run_patchWords (blk : Block) (buf : List Byte) (p : Nat) (target : Word) :
    (blk.run (patchWords buf p target)).1 = ⟨rawcrc (buf.take p)⟩ := by
  rw [patchWords, Block.run_append, Block.run_backwardWords, Block.run_forwardWords]

/-- The words `DUMPR` expands to read the whole reverse table and leave the block (R48, R63). -/
theorem issueAllForData_dumpr (s : State) :
    issueAllForData Line.dumpr.words s = some (allBytes.map rtab, s.answer Line.dumpr.words) :=
  issueAllForData_eq (mk := .lutr) (fun _ _ => rfl) allBytes s

theorem Block.run_dumpr (blk : Block) : (blk.run Line.dumpr.words).1 = blk :=
  congrArg Prod.fst (Block.run_reads (mk := .lutr) (fun _ => rfl) allBytes)

theorem dumpr_length : Line.dumpr.words.length = 256 := by
  simp [Line.words, allBytes_length]

/-- A look-up in the copy is a look-up in the ROM (R63, R97). -/
theorem revstepFromCopy_rtab : revstepFromCopy (allBytes.map rtab) = revstep := by
  have lookup (i : Byte) : (allBytes.map rtab).getD i.toNat 0#32 = rtab i := by
    have hi : i.toNat < 256 := i.isLt
    simp [allBytes, hi]
  funext t b
  rw [revstepFromCopy, lookup, revstep]

/-- The words of FIXCRC with a copy of the table at a validated offset (R97; log 16). -/
def copyWords (buf : List Byte) (p : Nat) : List CmdWord := Line.dumpr.words ++ forwardWords (buf.take p)

theorem copyWords_length {buf : List Byte} {p : Nat} (h : p + 4 ≤ buf.length) :
    (copyWords buf p).length = 256 + (p + 2) := by
  rw [copyWords, List.length_append, dumpr_length, forwardWords_length, List.length_take_of_le (by omega)]

theorem Block.run_copyWords (blk : Block) (buf : List Byte) (p : Nat) :
    (blk.run (copyWords buf p)).1 = ⟨rawcrc (buf.take p)⟩ := by
  rw [copyWords, Block.run_append, Block.run_forwardWords]

theorem fixcrcOnBlock_of_rejected {buf : List Byte} {fixPos : Int} (target : Word) (s : State)
    (h : validate buf.length fixPos = none) : fixcrcOnBlock buf target fixPos s = some (.invalidLength, buf, s) := by
  simp [fixcrcOnBlock, h]

theorem fixcrcOnBlock_of_accepted {buf : List Byte} {fixPos : Int} {p : Nat} (target : Word) (s : State)
    (h : validate buf.length fixPos = some p) :
    fixcrcOnBlock buf target fixPos s =
      some (.success p, patch buf p target, s.answer (patchWords buf p target)) := by
  simp [fixcrcOnBlock, h, patchOnBlock_eq]

theorem fixcrcWithTableCopy_of_rejected {buf : List Byte} {fixPos : Int} (target : Word) (s : State)
    (h : validate buf.length fixPos = none) : fixcrcWithTableCopy buf target fixPos s = some (.invalidLength, buf, s) := by
  simp [fixcrcWithTableCopy, h]

theorem fixcrcWithTableCopy_of_accepted {buf : List Byte} {fixPos : Int} {p : Nat} (target : Word) (s : State)
    (h : validate buf.length fixPos = some p) :
    fixcrcWithTableCopy buf target fixPos s = some (.success p, patch buf p target, s.answer (copyWords buf p)) := by
  simp [fixcrcWithTableCopy, h, issueAllForData_dumpr, rawcrcOnBlock_eq, revstepFromCopy_rtab, patch, forwardPass,
    backwardPass, revFrom, copyWords, State.answer_append]

end Sys2Proof.Machine
end

section
/-! PROOFS. FIXCRC carried out on the block, in the two ways of R97. -/

namespace Sys2Proof.Machine

/-- Settles O54: the block answers each look-up with the reverse table's word and `FIN` with the register the
forward pass left. -/
theorem fixcrcOnBlockRefinesFixcrc : Obligations.FixcrcOnBlockRefinesFixcrc := by
  intro buf target fixPos s
  cases hv : validate buf.length fixPos with
  | none =>
    rw [fixcrc_of_rejected target hv, fixcrcOnBlock_of_rejected target s hv]
    exact ⟨s, rfl, rfl, List.prefix_rfl, nofun, fun _ => rfl⟩
  | some p =>
    obtain ⟨-, -, hfits⟩ := validate_some hv
    rw [fixcrc_of_accepted target hv, fixcrcOnBlock_of_accepted target s hv]
    obtain ⟨hcommands, hresponses, hcount, hreg⟩ := s.answer_frame (Block.run_patchWords s.toBlock buf p target)
    refine ⟨_, rfl, hcommands, hresponses, ?_, nofun⟩
    rintro _ ⟨⟩
    exact ⟨by rw [hcount, patchWords_length target hfits, ← Nat.add_assoc], hreg⟩

/-- Settles O55: the values of `DUMPR` are the reverse table, so that a look-up in the copy is one in the ROM. -/
theorem fixcrcWithTableCopyRefinesFixcrc : Obligations.FixcrcWithTableCopyRefinesFixcrc := by
  intro buf target fixPos s
  cases hv : validate buf.length fixPos with
  | none =>
    rw [fixcrc_of_rejected target hv, fixcrcWithTableCopy_of_rejected target s hv]
    exact ⟨s, rfl, rfl, List.prefix_rfl, nofun, fun _ => rfl⟩
  | some p =>
    obtain ⟨-, -, hfits⟩ := validate_some hv
    rw [fixcrc_of_accepted target hv, fixcrcWithTableCopy_of_accepted target s hv]
    obtain ⟨hcommands, hresponses, hcount, hreg⟩ := s.answer_frame (Block.run_copyWords s.toBlock buf p)
    refine ⟨_, rfl, hcommands, hresponses, ?_, nofun⟩
    rintro _ ⟨⟩
    exact ⟨by rw [hcount, copyWords_length hfits, ← Nat.add_assoc], hreg⟩

end Sys2Proof.Machine
end

section
/-! PROOFS. How a call of FIXCRC and a command can end (R100, R101). -/

namespace Sys2Proof.Machine

/-- The validation rejects a buffer shorter than four bytes, a window past the end, and nothing else (R87). -/
theorem validate_eq_none_iff {len : Nat} {fixPos : Int} :
    validate len fixPos = none ↔ len < 4 ∨ len < normalise len fixPos + 4 := by
  refine ⟨fun h => ?_, validate_of_overrun⟩
  by_contra hfits
  rw [validate_of_fits (by omega) (by omega)] at h
  cases h

/-- The ground of a rejection in unbounded integers, with the floored modulo of R86. -/
theorem validate_eq_none_iff_emod {len : Nat} {fixPos : Int} :
    validate len fixPos = none ↔ len < 4 ∨ (4 ≤ len ∧ fixPos % (len : Int) + 4 > (len : Int)) := by
  rw [validate_eq_none_iff]
  rcases Nat.lt_or_ge len 4 with hshort | h4
  · simp only [hshort, true_or]
  · have cast := normalise_cast fixPos (show 0 < len by omega)
    omega

/-- A call reports `InvalidLength` where the validation rejects, and nowhere else (R87, R92). -/
theorem fixcrc_invalidLength_iff {buf : List Byte} {target : Word} {fixPos : Int} :
    (fixcrc buf target fixPos).1 = .invalidLength ↔ validate buf.length fixPos = none := by
  cases hv : validate buf.length fixPos with
  | none => simp [fixcrc_of_rejected target hv]
  | some p => simp [fixcrc_of_accepted target hv]

/-- Settles O47: the result is the validation's, and a rejected call answers the buffer it was given. -/
theorem fixcrcRejectsExactlyInvalidLengths : Obligations.FixcrcRejectsExactlyInvalidLengths := by
  intro buf target fixPos
  refine ⟨fixcrc_invalidLength_iff.trans validate_eq_none_iff_emod, fun h => ?_⟩
  rw [fixcrc_of_rejected target (fixcrc_invalidLength_iff.mp h)]

/-- Settles O39: each command is its effect on the block, completed on the port. -/
theorem everyCommandCompletes : Obligations.EveryCommandCompletes :=
  fun i s => ⟨s.complete (s.toBlock.execute i), exec_eq i s⟩

end Sys2Proof.Machine
end

section
/-! PROOFS. The state after reset (R115). -/

namespace Sys2Proof.Machine

/-- Settles O40: the reset value of `REG`, and the two ROM listings word by word. -/
theorem resetStateHoldsInitialRegister : Obligations.ResetStateHoldsInitialRegister :=
  ⟨rfl, fun i => ⟨ftab_eq_genf i, rtab_eq_genr i⟩⟩

end Sys2Proof.Machine
end

section
/-! SUPPORT. The decoder as an equivalence with the encoder, as the checks on a word's fields, and as the rows of the opcode map
(R36, R39, R41, R42). -/

namespace Sys2Proof.Machine

/-- The one word that decodes to a command is its encoding. -/
theorem decode_eq_ok_iff {w : CmdWord} {i : Instr} : decode w = .ok i ↔ encode i = w :=
  ⟨encode_of_decode, fun h => h ▸ decode_encode i⟩

/-- The decoder accepts the legal words. -/
theorem decode_ok_iff (w : CmdWord) : (∃ i, decode w = .ok i) ↔ ¬IllegalWord w := by
  simp only [decode_eq_ok_iff, not_illegalWord_iff]

/-- The grounds of R42 are the breaches of the three checks on the fields. -/
theorem not_illegalWord_iff_fields_wf (w : CmdWord) : ¬IllegalWord w ↔ (fieldsOf w).wf = true := by
  have hop : (fieldsOf w).opOk = true ↔ ¬(w.extractLsb' 12 4 = 0x0#4 ∨ 8 ≤ (w.extractLsb' 12 4).toNat) := by
    simp [Fields.opOk, fieldsOf, BitVec.ult]
  have hrsv : (fieldsOf w).rsvOk = true ↔ ¬w.extractLsb' 8 4 ≠ 0#4 := by
    simp [Fields.rsvOk, fieldsOf]
  have harg : (fieldsOf w).argOk = true ↔
      ¬((w.extractLsb' 12 4 = 0x5#4 ∨ w.extractLsb' 12 4 = 0x7#4) ∧ w.extractLsb' 0 8 ≠ 0#8) := by
    simp [Fields.argOk, Fields.formatZ, fieldsOf]
    tauto
  rw [Fields.wf, Bool.and_eq_true, Bool.and_eq_true, hop, hrsv, harg, IllegalWord]
  tauto

theorem getLsbD_highMask : ∀ i < 16, (0xFF00#16).getLsbD i = decide (8 ≤ i) := by decide

/-- A word is its high byte, with its low byte put below it. -/
theorem highByte_or_lowByte (w : CmdWord) : w &&& 0xFF00#16 ||| (w.extractLsb' 0 8).setWidth 16 = w := by
  ext i hi
  rw [← BitVec.getLsbD_eq_getElem hi, ← BitVec.getLsbD_eq_getElem hi, BitVec.getLsbD_or, BitVec.getLsbD_and,
    getLsbD_highMask i hi]
  by_cases h : i < 8
  · simp [h, hi]
  · simp [show 8 ≤ i by omega]

/-- A byte has no bit under the mask of the high byte. -/
theorem lowByte_and_highMask (b : Byte) : b.setWidth 16 &&& 0xFF00#16 = 0#16 := by
  ext i hi
  rw [← BitVec.getLsbD_eq_getElem hi, BitVec.getLsbD_and, getLsbD_highMask i hi]
  by_cases h : i < 8
  · simp [show ¬8 ≤ i by omega]
  · simp [BitVec.getLsbD_of_ge b i (by omega)]

/-- The words with a given high byte are the 256 with any byte below it: the rows of format `A` (R39, R41). -/
theorem and_highMask_eq_iff {w base : CmdWord} (hbase : base &&& 0xFF00#16 = base) :
    w &&& 0xFF00#16 = base ↔ ∃ b : Byte, base ||| b.setWidth 16 = w := by
  constructor
  · rintro rfl
    exact ⟨_, highByte_or_lowByte w⟩
  · rintro ⟨b, rfl⟩
    rw [BitVec.and_or_distrib_right, hbase, lowByte_and_highMask, BitVec.or_zero]

/-- A format `A` row accepts the words of its commands alone. -/
theorem accepts_formatA_iff {mk : Byte → Instr} {base w : CmdWord}
    (hmk : ∀ b, encode (mk b) = base ||| b.setWidth 16) (hbase : base &&& 0xFF00#16 = base) :
    OpcodeRow.accepts ⟨base, 0xFF00#16⟩ w = true ↔ ∃ b, decode w = .ok (mk b) := by
  simp only [OpcodeRow.accepts, beq_iff_eq, and_highMask_eq_iff hbase, decode_eq_ok_iff, hmk]

/-- A format `Z` row accepts its pattern alone. -/
theorem accepts_formatZ_iff {pattern w : CmdWord} : OpcodeRow.accepts ⟨pattern, 0xFFFF#16⟩ w = true ↔ w = pattern := by
  rw [OpcodeRow.accepts, beq_iff_eq, show 0xFFFF#16 = BitVec.allOnes 16 from rfl, BitVec.and_allOnes]

/-- The row of a command accepts its word. -/
theorem accepts_encode (i : Instr) : (rowOf i).accepts (encode i) = true := by
  cases i with
  | genf n => exact (accepts_formatA_iff encode_genf rfl).mpr ⟨n, decode_encode _⟩
  | genr n => exact (accepts_formatA_iff encode_genr rfl).mpr ⟨n, decode_encode _⟩
  | lutf k => exact (accepts_formatA_iff encode_lutf rfl).mpr ⟨k, decode_encode _⟩
  | lutr k => exact (accepts_formatA_iff encode_lutr rfl).mpr ⟨k, decode_encode _⟩
  | init => exact accepts_formatZ_iff.mpr encode_init
  | upd b => exact (accepts_formatA_iff encode_upd rfl).mpr ⟨b, decode_encode _⟩
  | fin => exact accepts_formatZ_iff.mpr encode_fin

/-- The row of a command accepts no word but those of the commands of that row (R41). -/
theorem exists_command_of_accepts {i : Instr} {w : CmdWord} (h : (rowOf i).accepts w = true) :
    ∃ j, decode w = .ok j ∧ rowOf j = rowOf i := by
  cases i with
  | genf => obtain ⟨b, hb⟩ := (accepts_formatA_iff encode_genf rfl).mp h; exact ⟨_, hb, rfl⟩
  | genr => obtain ⟨b, hb⟩ := (accepts_formatA_iff encode_genr rfl).mp h; exact ⟨_, hb, rfl⟩
  | lutf => obtain ⟨b, hb⟩ := (accepts_formatA_iff encode_lutf rfl).mp h; exact ⟨_, hb, rfl⟩
  | lutr => obtain ⟨b, hb⟩ := (accepts_formatA_iff encode_lutr rfl).mp h; exact ⟨_, hb, rfl⟩
  | init => obtain rfl := accepts_formatZ_iff.mp h; exact ⟨_, decode_encode .init, rfl⟩
  | upd => obtain ⟨b, hb⟩ := (accepts_formatA_iff encode_upd rfl).mp h; exact ⟨_, hb, rfl⟩
  | fin => obtain rfl := accepts_formatZ_iff.mp h; exact ⟨_, decode_encode .fin, rfl⟩

/-- The map holds the rows of the commands. -/
theorem mem_opcodeMap_iff {r : OpcodeRow} : r ∈ opcodeMap ↔ ∃ i, rowOf i = r := by
  constructor
  · intro h
    obtain ⟨i, -, hi⟩ : ∃ i ∈ [.genf 0, .genr 0, .lutf 0, .lutr 0, .init, .upd 0, .fin], rowOf i = r :=
      List.mem_map.mp h
    exact ⟨i, hi⟩
  · rintro ⟨i, rfl⟩
    cases i <;> simp [opcodeMap, rowOf]

end Sys2Proof.Machine
end

section
/-! PROOFS. The decoder and the opcode map (R36, R39, R41). -/

namespace Sys2Proof.Machine

/-- Settles O29: the decoder inverts the encoder, and accepts a command's encoding alone. -/
theorem decodeEncodeRoundTrip : Obligations.DecodeEncodeRoundTrip :=
  ⟨fun i _ => decode_encode i, fun _ i h => ⟨encode_of_decode h, Laws.instr_wf i⟩⟩

/-- Settles O26: a row accepts the words of its commands alone, so the command a word decodes to names the one row. -/
theorem opcodeMapDecidesDecoding : Obligations.OpcodeMapDecidesDecoding := by
  have decoded {w : CmdWord} {r : OpcodeRow} (hr : r ∈ opcodeMap) (h : r.accepts w = true) :
      ∃ i, decode w = .ok i ∧ rowOf i = r := by
    obtain ⟨i, rfl⟩ := mem_opcodeMap_iff.mp hr
    exact exists_command_of_accepts h
  refine ⟨rfl, fun w i h => ?_, fun w r => decoded, fun w r r' hr hr' h h' => ?_⟩
  · obtain rfl := encode_of_decode h
    exact ⟨mem_opcodeMap_iff.mpr ⟨i, rfl⟩, accepts_encode i⟩
  · obtain ⟨i, hi, rfl⟩ := decoded hr h
    obtain ⟨j, hj, rfl⟩ := decoded hr' h'
    obtain rfl : i = j := Except.ok.inj (hi.symm.trans hj)
    rfl

/-- Settles O30: the words that are not rejected are those on none of the grounds of R42, which are the three checks. -/
theorem decoderAcceptsExactlyWellFormedFields : Obligations.DecoderAcceptsExactlyWellFormedFields :=
  ⟨fun w => (decode_ok_iff w).trans (not_illegalWord_iff_fields_wf w), Laws.fieldsOf_encode⟩

/-- Settles O28: the words, evaluated. -/
theorem workedWordsDecode : Obligations.WorkedWordsDecode := by
  unfold Obligations.WorkedWordsDecode
  decide

end Sys2Proof.Machine
end

section
/-! SUPPORT. Which words touch `REG` (R10), and the register after a run as the words decide it (R126). -/

namespace Sys2Proof.Machine

/-- The words that write `REG`: `0x5000` and `0x60xx` (R10, R41). -/
theorem writesReg_iff {w : CmdWord} : writesReg w = true ↔ w = 0x5000#16 ∨ w &&& 0xFF00#16 = 0x6000#16 := by
  rw [and_highMask_eq_iff rfl]
  constructor
  · intro h
    cases hd : decode w with
    | error c => simp [writesReg, hd] at h
    | ok i =>
      obtain rfl := encode_of_decode hd
      cases i with
      | init => exact .inl rfl
      | upd b => exact .inr ⟨b, (encode_upd b).symm⟩
      | genf | genr | lutf | lutr | fin => simp [writesReg] at h
  · rintro (rfl | ⟨b, rfl⟩)
    · rfl
    · simp [← encode_upd, writesReg]

/-- The response to a word other than `FIN` does not depend on `REG` (R10). -/
theorem Block.step_response_congr (a b : Block) {w : CmdWord} (h : w ≠ 0x7000#16) : (a.step w).2 = (b.step w).2 := by
  cases hd : decode w with
  | error c => simp [Block.step, hd]
  | ok i =>
    obtain rfl := encode_of_decode hd
    simp only [Block.step_encode, Block.execute_eq]
    cases i with
    | fin => exact absurd encode_fin h
    | genf | genr | lutf | lutr | init | upd => rfl

/-- A word other than a `UPD` leaves one register from every block, or leaves each block (R10). -/
theorem Block.step_same_or_unchanged (a b : Block) {w : CmdWord} (h : w &&& 0xFF00#16 ≠ 0x6000#16) :
    (a.step w).1 = (b.step w).1 ∨ ((a.step w).1 = a ∧ (b.step w).1 = b) := by
  cases hw : writesReg w with
  | true =>
    obtain rfl := (writesReg_iff.mp hw).resolve_right h
    exact .inl rfl
  | false => exact .inr ⟨a.step_of_not_writesReg hw, b.step_of_not_writesReg hw⟩

/-- A command responds, and never `ILLEGAL` (R37, R100). -/
theorem Block.execute_response_ne_illegal (blk : Block) (i : Instr) : (blk.execute i).2 ≠ .illegal := by
  rw [Block.execute_eq]
  cases i <;> nofun

/-- A command other than `INIT` and `UPD` leaves the block (R10). -/
theorem Block.execute_of_not_writer (blk : Block) {i : Instr} (hinit : i ≠ .init) (hupd : ∀ b, i ≠ .upd b) :
    (blk.execute i).1 = blk := by
  cases i with
  | init => exact absurd rfl hinit
  | upd b => exact absurd rfl (hupd b)
  | genf | genr | lutf | lutr | fin => rfl

/-- The register after a run of the block is what its words decide (R126). -/
theorem Block.run_reg (blk : Block) (ws : List CmdWord) : (blk.run ws).1.reg = regAfter blk.reg ws := by
  induction ws generalizing blk with
  | nil => rfl
  | cons w ws ih => rw [regAfter_cons, ← ih, Block.run]

/-- A word taken and answered keeps the run sound: it is one more taken, with one more response (R29, R35). -/
theorem RunInv.of_runWord {s0 s t : State} {w : CmdWord} {rest : List CmdWord} (h : RunInv s0 s)
    (hc : s.commands = w :: rest) (hrun : runWord w { s with commands := rest } = .next t) : RunInv s0 t := by
  obtain ⟨taken, hcommands, hresponses, hlength, hreg⟩ := h
  obtain ⟨t', r, ht', htc, htr, hafter⟩ := runWord_result w { s with commands := rest }
  obtain rfl : t = t' := Host.Outcome.next.inj (hrun.symm.trans ht')
  refine ⟨taken ++ [w], ?_, ?_, ?_, ?_⟩
  · rw [hcommands, hc, htc, List.append_assoc, List.singleton_append]
  · exact htr ▸ hresponses.trans (List.prefix_append ..)
  · simp [htr, hlength, Nat.add_assoc]
  · rw [regAfter_append, ← hreg]
    exact (hafter []).symm

end Sys2Proof.Machine
end

section
/-! PROOFS. Which commands touch `REG` (R10), the frame of a command, and runs (R29, R35, R64, R116, R117, R125, R126). -/

namespace Sys2Proof.Machine

/-- Settles O43: a step takes one word and answers it, or changes nothing. -/
theorem stepKeepsRunInvariant : Obligations.StepKeepsRunInvariant := by
  intro s0 s t hinv hstep
  obtain ⟨-, rfl⟩ | ⟨w, rest, hc, hrun⟩ := step_cases hstep
  · exact hinv
  · exact hinv.of_runWord hc hrun

/-- Settles O36: a step that takes no word, or one that does not write `REG`, leaves the block. -/
theorem onlyInitAndUpdWriteReg : Obligations.OnlyInitAndUpdWriteReg := by
  intro s t hstep hne
  obtain ⟨-, rfl⟩ | ⟨w, rest, hc, -⟩ := step_cases hstep
  · exact absurd rfl hne
  · refine ⟨w, rest, hc, writesReg_iff.mp ?_⟩
    by_contra hw
    rw [step_eq_block_step hc, Block.step_of_not_writesReg _ (eq_false_of_ne_true hw)] at hstep
    cases hstep
    exact hne rfl

/-- Settles O37: on the block, only `FIN` responds with `REG`, and a word that is no `UPD` loads a constant or leaves it. -/
theorem onlyUpdAndFinReadReg : Obligations.OnlyUpdAndFinReadReg := by
  intro w rest rs r1 r2 t1 t2 h1 h2
  rw [step_eq_block_step rfl] at h1 h2
  cases h1
  cases h2
  refine ⟨fun hfin => ?_, fun hupd => ?_⟩
  · simp only [Block.step_response_congr ⟨r1⟩ ⟨r2⟩ hfin]
  · exact (Block.step_same_or_unchanged ⟨r1⟩ ⟨r2⟩ hupd).imp (congrArg Block.reg)
      (And.imp (congrArg Block.reg) (congrArg Block.reg))

/-- Settles O38: each command is its effect on the block, completed on the port. -/
theorem commandsChangeOnlyWhatTheyName : Obligations.CommandsChangeOnlyWhatTheyName := by
  intro i s t h
  rw [exec_eq] at h
  cases h
  exact ⟨rfl, ⟨_, s.toBlock.execute_response_ne_illegal i, rfl⟩,
    fun hinit hupd => congrArg Block.reg (s.toBlock.execute_of_not_writer hinit hupd)⟩

/-- Settles O42: the `UPD`s carry the recurrence on from where the first message left it, and `FIN` reads it out. -/
theorem missingInitConcatenatesMessages : Obligations.MissingInitConcatenatesMessages := by
  intro m1 m2 s h
  have run : s.toBlock.run ((m2.map fun b => encode (.upd b)) ++ [encode .fin]) =
      (⟨rawcrc (m1 ++ m2)⟩, List.replicate m2.length .none ++ [.data (crc32 (m1 ++ m2))]) := by
    simp [Block.run_append, Block.run_updates, Block.run, Block.execute, h, rawcrc_append, crc32]
  refine ⟨_, runCommands_eq_block_run _ s, ?_, ?_⟩
  · rw [run]
  · simp [run]

/-- Settles O45: a run of the machine is the block's run, which answers each word once. -/
theorem runAnswersEveryCommandOnce : Obligations.RunAnswersEveryCommandOnce := by
  refine ⟨fun ws s => ⟨_, runCommands_eq_block_run ws s, rfl, List.prefix_append .., ?_, Block.run_reg ..⟩, fun ws => ?_⟩
  · rw [List.length_append, Block.run_length]
  · refine ⟨⟨(Block.reset.run ws).2, (Block.reset.run ws).1.reg⟩, ?_, Block.run_length .., Block.run_reg ..⟩
    rw [observe, runCommands_eq_block_run]
    rfl

/-- Settles O56: the block's step on each command's word is the command's meaning, and the machine's step and run are the block's,
completed on the port. -/
theorem machineRunsBlockStepAlone : Obligations.MachineRunsBlockStepAlone := by
  refine ⟨?_, fun i => ⟨ftab_eq_genf i, rtab_eq_genr i⟩, fun r n => ?_, fun r w => Block.step_of_illegal ⟨r⟩,
    fun w rest s => step_eq_block_step, runCommands_eq_block_run⟩
  · rintro ⟨ra⟩ ⟨rb⟩ rfl
    rfl
  · rw [← encode_genf, ← encode_genr, ← encode_lutf, ← encode_lutr, ← encode_init, ← encode_upd, ← encode_fin]
    simp only [Block.step_encode]
    exact ⟨rfl, rfl, rfl, rfl, rfl, rfl, rfl⟩

/-- Settles O13: the word presented is the command's encoding, and the two ROMs hold the generator's outputs. -/
theorem tablesAreFullFromReset : Obligations.TablesAreFullFromReset := by
  intro i
  have first (j : Instr) : step (State.reset.present (encode j)) =
      .next ⟨(Block.reset.execute j).1, [], [(Block.reset.execute j).2]⟩ := by
    rw [step_eq_block_step (State.present_commands ..), State.present_toBlock, Block.step_encode]
    rfl
  have updated : crcstep 0xFFFFFFFF#32 i = 0x00FFFFFF#32 ^^^ genf 0xEDB88320#32 (0xFF#8 ^^^ i) := by
    rw [crcstep, stepIndex_eq, ftab_eq_genf]
    rfl
  rw [← encode_lutf, ← encode_lutr, ← encode_upd, first, first, first, Block.execute_lutf, Block.execute_lutr, ← updated]
  exact ⟨rfl, rfl, rfl⟩

/-- Settles O32: the word is taken, then run as its command. -/
theorem stepRunsDecodedCommand : Obligations.StepRunsDecodedCommand :=
  fun w rest i s hc hd => by rw [step_of_cons hc, runWord_of_ok hd]

/-- Settles O41: no word is there to take. -/
theorem nothingChangesBetweenCommands : Obligations.NothingChangesBetweenCommands :=
  fun s h => by rw [step, State.take_of_nil h]

/-- Settles O44: no word has been taken yet. -/
theorem runInvariantHoldsAtReset : Obligations.RunInvariantHoldsAtReset :=
  fun _ => ⟨[], rfl, List.prefix_rfl, rfl, rfl⟩

end Sys2Proof.Machine
end

section
/-! PROOFS. Little-endian bytes: a checksum behind its message (R23, V28), and the four-byte buffer write (R89, R91). -/

namespace Sys2Proof.Machine

/-- Settles O25: the checksum's bytes meet the register of which they are the complement, so that its value drops out. -/
theorem appendedChecksumLeavesResidue : Obligations.AppendedChecksumLeavesResidue := by
  intro buf
  have residue : rawcrc (buf ++ le4 (crc32 buf)) = 0xDEBB20E3#32 :=
    calc rawcrc (buf ++ le4 (crc32 buf))
        = crcFrom (rawcrc buf ^^^ crc32 buf) (le4 0#32) := by rw [rawcrc_append, crcFrom_le4_eq]
      _ = crcFrom Config.xorout (le4 0#32) := by rw [crc32, xor_cancel_left]
      _ = 0xDEBB20E3#32 := by decide
  exact ⟨residue, by rw [crc32, residue]; rfl⟩

/-- The bytes of a word, lowest first (R23). -/
theorem getElem?_le4 (v : Word) {k : Nat} (h : k < 4) : (le4 v)[k]? = some (v.extractLsb' (8 * k) 8) := by
  interval_cases k <;> rfl

/-- Settles O48: inside the buffer, the write replaces the window with the word's bytes. -/
theorem fourByteWriteIsLittleEndian : Obligations.FourByteWriteIsLittleEndian := by
  intro buf p v h
  rw [memWrite4_at v h]
  refine ⟨fun k hk => ?_, agreeOutsideWindow_of_word v h⟩
  have hp : (buf.take p).length = p := List.length_take_of_le (by omega)
  have hk4 : k < (le4 v).length := hk
  rw [List.append_assoc, List.getElem?_append_right (by omega), hp, Nat.add_sub_cancel_left,
    List.getElem?_append_left hk4, getElem?_le4 v hk]

end Sys2Proof.Machine
end

section
/-! SUPPORT. How the assembler reads a line of one command (R44): the words and the quoted character it is cut into. -/

namespace Sys2Proof.Machine

/-- In a word, a character that ends no word goes into it. -/
theorem lexChar_inWord {c : Char} (h : isSeparator c = false) (rev : List Char) (toks : List Token) :
    lexChar (.inWord rev, toks) c = some (.inWord (c :: rev), toks) := by
  simp [lexChar, h]

/-- Between tokens, a character that ends no word starts one. -/
theorem lexChar_between {c : Char} (h : isSeparator c = false) (toks : List Token) :
    lexChar (.between, toks) c = some (.inWord [c], toks) := by
  simp only [isSeparator, Bool.or_eq_false_iff] at h
  simp [lexChar, lexBetween, h]

/-- The characters of a word, none a separator, are read into it. -/
theorem foldlM_lexChar_inWord {cs : List Char} (h : ∀ c ∈ cs, isSeparator c = false) (rev : List Char)
    (toks : List Token) : cs.foldlM lexChar (.inWord rev, toks) = some (.inWord (cs.reverse ++ rev), toks) := by
  induction cs generalizing rev with
  | nil => rfl
  | cons c cs ih =>
    obtain ⟨hc, hcs⟩ := List.forall_mem_cons.mp h
    simp [List.foldlM_cons, lexChar_inWord hc, ih hcs]

/-- What may stand for a word in a line: characters that are no separators, one at least. -/
def IsWord (cs : List Char) : Prop := cs ≠ [] ∧ ∀ c ∈ cs, isSeparator c = false

theorem foldlM_lexChar_word {cs : List Char} (h : IsWord cs) (toks : List Token) :
    cs.foldlM lexChar (.between, toks) = some (.inWord cs.reverse, toks) := by
  obtain ⟨hne, hsep⟩ := h
  obtain ⟨c, cs, rfl⟩ := List.exists_cons_of_ne_nil hne
  obtain ⟨hc, hcs⟩ := List.forall_mem_cons.mp hsep
  simp [List.foldlM_cons, lexChar_between hc, foldlM_lexChar_inWord hcs]

/-- A word and a space after it. -/
theorem foldlM_lexChar_word_space {cs : List Char} (h : IsWord cs) (rest : List Char) :
    (cs ++ ' ' :: rest).foldlM lexChar (.between, []) = rest.foldlM lexChar (.between, [.word cs]) := by
  have space : lexChar (.inWord cs.reverse, []) ' ' = some (.between, [.word cs]) := by
    simp [lexChar, lexBetween, isSeparator, isBlank]
  simp [List.foldlM_append, foldlM_lexChar_word h, List.foldlM_cons, space]

theorem tokens_word {cs : List Char} (h : IsWord cs) : tokens cs = some [.word cs] := by
  simp [tokens, foldlM_lexChar_word h, lexEnd]

theorem tokens_word_word {m cs : List Char} (hm : IsWord m) (hcs : IsWord cs) :
    tokens (m ++ ' ' :: cs) = some [.word m, .word cs] := by
  simp [tokens, foldlM_lexChar_word_space hm, foldlM_lexChar_word hcs, lexEnd]

/-- A word and a character between single quotes: any ASCII code (R44; log 12). -/
theorem tokens_word_quoted {m : List Char} (hm : IsWord m) {c : Char} {b : Byte} (hc : asciiByte c = some b) :
    tokens (m ++ [' ', singleQuote, c, singleQuote]) = some [.word m, .quoted b] := by
  have opening : lexChar (.between, [.word m]) singleQuote = some (.afterQuote, [.word m]) := rfl
  have quoted : lexChar (.afterQuote, [.word m]) c = some (.afterQuotedChar b, [.word m]) := by simp [lexChar, hc]
  have closing : lexChar (.afterQuotedChar b, [.word m]) singleQuote = some (.between, [.quoted b, .word m]) := rfl
  simp [tokens, foldlM_lexChar_word_space hm, List.foldlM_cons, opening, quoted, closing, lexEnd]

theorem isWord_mnemonicText (i : Instr) : IsWord (mnemonicText i) := by
  cases i <;> simp [IsWord, mnemonicText, isSeparator, isBlank, singleQuote, doubleQuote]

/-- The mnemonic of a command with its operand behind it is that command (R44). -/
theorem parseLine_operand {i : Instr} {b : Byte} {t : Token} (hi : i.operand = some b) (ht : operandValue t = some b) :
    parseLine (mnemonicText i) [t] = some (.command i) := by
  cases i with
  | init | fin => cases hi
  | genf | genr | lutf | lutr | upd =>
    cases hi
    simp [parseLine, mnemonicText, oneOperand, ht]

/-- The mnemonic of a command without operand is that command (R44). -/
theorem parseLine_noOperand {i : Instr} (hi : i.operand = none) : parseLine (mnemonicText i) [] = some (.command i) := by
  cases i with
  | init | fin => rfl
  | genf | genr | lutf | lutr | upd => cases hi

theorem assembleLine_operand {i : Instr} {b : Byte} {t : Token} {line : List Char}
    (hline : tokens line = some [.word (mnemonicText i), t]) (hi : i.operand = some b) (ht : operandValue t = some b) :
    assembleLine line = some [encode i] := by
  simp [assembleLine, hline, parseTokens, parseLine_operand hi ht, Line.words]

end Sys2Proof.Machine
end

section
/-! SUPPORT. How the assembler reads a number (R44): the digits of either base, and that the characters of a number make a word. -/

namespace Sys2Proof.Machine

theorem digitValue_of_isDigit {c : Char} (h : c.isDigit = true) : digitValue c = some (c.toNat - '0'.toNat) := by
  have range : '0' ≤ c ∧ c ≤ '9' := by simpa [Char.isDigit, Char.le_def] using h
  exact if_pos range

theorem digit_lt_ten {c : Char} (h : c.isDigit = true) : c.toNat - '0'.toNat < 10 := by
  have range : c.toNat ≤ '9'.toNat := by
    simp only [Char.isDigit, Bool.and_eq_true, decide_eq_true_eq] at h
    exact h.2
  simp only [show '9'.toNat = 57 from rfl, show '0'.toNat = 48 from rfl] at range ⊢
  omega

/-- The characters that end a word, listed. -/
def separators : List Char := [' ', Char.ofNat 9, Char.ofNat 13, ';', ',', singleQuote, doubleQuote]

theorem isSeparator_iff {c : Char} : isSeparator c = true ↔ c ∈ separators := by
  simp [isSeparator, isBlank, separators, or_assoc]

theorem isDigit_of_mem_separators : ∀ c ∈ separators, c.isDigit = false := by
  simp [separators, singleQuote, doubleQuote]

theorem isSeparator_of_isDigit {c : Char} (h : c.isDigit = true) : isSeparator c = false := by
  refine eq_false_of_ne_true fun hsep => ?_
  rw [isDigit_of_mem_separators c (isSeparator_iff.mp hsep)] at h
  cases h

/-- One digit of a number read after those before it. -/
def digitStep (base acc : Nat) (c : Char) : Option Nat :=
  (digitValue c).bind fun d => if d < base then some (acc * base + d) else none

theorem digitsValue_of_ne_nil {base : Nat} {cs : List Char} (h : cs ≠ []) :
    digitsValue base cs = cs.foldlM (digitStep base) 0 :=
  if_neg (by simpa using h)

theorem digitStep_of_digitValue {base acc d : Nat} {c : Char} (h : digitValue c = some d) (hd : d < base) :
    digitStep base acc c = some (acc * base + d) := by
  simp [digitStep, h, hd]

/-- Decimal digits are read as the library reads them. -/
theorem foldlM_digitStep_ten {cs : List Char} (h : ∀ c ∈ cs, c.isDigit = true) (acc : Nat) :
    cs.foldlM (digitStep 10) acc = some (Nat.ofDigitChars 10 cs acc) := by
  induction cs generalizing acc with
  | nil => rfl
  | cons c cs ih =>
    obtain ⟨hc, hcs⟩ := List.forall_mem_cons.mp h
    simp [List.foldlM_cons, digitStep_of_digitValue (digitValue_of_isDigit hc) (digit_lt_ten hc), ih hcs,
      Nat.ofDigitChars_cons, Nat.mul_comm]

/-- Decimal digits have no `0x` at their front, so they are read in base ten. -/
theorem numberValue_of_isDigit {cs : List Char} (h : ∀ c ∈ cs, c.isDigit = true) :
    numberValue cs = digitsValue 10 cs := by
  unfold numberValue
  split
  · simp at h
  · rfl

theorem isDigit_of_mem_decimal {n : Nat} : ∀ c ∈ Nat.toDigits 10 n, c.isDigit = true :=
  fun _ => Nat.isDigit_of_mem_toDigits (by decide) (by decide)

theorem numberValue_decimal (n : Nat) : numberValue (Nat.toDigits 10 n) = some n := by
  rw [numberValue_of_isDigit isDigit_of_mem_decimal, digitsValue_of_ne_nil Nat.toDigits_ne_nil,
    foldlM_digitStep_ten isDigit_of_mem_decimal, Nat.ofDigitChars_ten_toDigits]

theorem isWord_decimal (n : Nat) : IsWord (Nat.toDigits 10 n) :=
  ⟨Nat.toDigits_ne_nil, fun c hc => isSeparator_of_isDigit (isDigit_of_mem_decimal c hc)⟩

theorem digitValue_hexDigit : ∀ d : BitVec 4, digitValue (hexDigit d) = some d.toNat := by decide

theorem isSeparator_hexDigit : ∀ d : BitVec 4, isSeparator (hexDigit d) = false := by decide

/-- A byte is its two hexadecimal digits. -/
theorem toNat_eq_nibbles (b : Byte) : (b.extractLsb' 4 4).toNat * 16 + (b.extractLsb' 0 4).toNat = b.toNat := by
  simp only [BitVec.extractLsb'_toNat, Nat.shiftRight_eq_div_pow]
  omega

theorem numberValue_operandText (b : Byte) : numberValue (operandText b) = some b.toNat := by
  have digit (acc : Nat) (d : BitVec 4) : digitStep 16 acc (hexDigit d) = some (acc * 16 + d.toNat) :=
    digitStep_of_digitValue (digitValue_hexDigit d) d.isLt
  calc numberValue (operandText b)
      = digitsValue 16 [hexDigit (b.extractLsb' 4 4), hexDigit (b.extractLsb' 0 4)] := rfl
    _ = some ((b.extractLsb' 4 4).toNat * 16 + (b.extractLsb' 0 4).toNat) := by
      simp [digitsValue_of_ne_nil, List.foldlM_cons, digit]
    _ = some b.toNat := by rw [toNat_eq_nibbles]

theorem isWord_operandText (b : Byte) : IsWord (operandText b) := by
  have marker : isSeparator '0' = false ∧ isSeparator 'x' = false := ⟨rfl, rfl⟩
  simp [IsWord, operandText, isSeparator_hexDigit, marker]

theorem operandValue_word {cs : List Char} {b : Byte} (h : numberValue cs = some b.toNat) :
    operandValue (.word cs) = some b := by
  have range : operandInRange b.toNat = true := decide_eq_true b.isLt
  simp [operandValue, h, range]

theorem asciiByte_ofNat {b : Byte} (h : b.toNat < 128) : asciiByte (Char.ofNat b.toNat) = some b := by
  have code : (Char.ofNat b.toNat).toNat = b.toNat := by
    rw [Char.toNat_ofNat, if_pos (.inl (by omega))]
  rw [asciiByte, code, if_pos h, BitVec.ofNat_toNat, BitVec.setWidth_eq]

end Sys2Proof.Machine
end

section
/-! PROOFS. The assembler (R44). -/

namespace Sys2Proof.Machine

theorem assembleLine_instrText (i : Instr) : assembleLine (instrText i) = some [encode i] := by
  cases hi : i.operand with
  | none =>
    simp [assembleLine, instrText, hi, tokens_word (isWord_mnemonicText i), parseTokens, parseLine_noOperand hi, Line.words]
  | some b =>
    have line : instrText i = mnemonicText i ++ ' ' :: operandText b := by rw [instrText, hi]
    rw [line]
    exact assembleLine_operand (tokens_word_word (isWord_mnemonicText i) (isWord_operandText b)) hi
      (operandValue_word (numberValue_operandText b))

/-- Settles O33: a line is the mnemonic's word and, where there is an operand, one more word or quoted character, whose number is
the operand's; the examples, evaluated. -/
theorem assemblerReadsEveryCommand : Obligations.AssemblerReadsEveryCommand := by
  refine ⟨assembleLine_instrText, fun i b hi => ?_, fun i b hi hb => ?_, by decide⟩
  · exact assembleLine_operand (tokens_word_word (isWord_mnemonicText i) (isWord_decimal _)) hi
      (operandValue_word (numberValue_decimal _))
  · exact assembleLine_operand (tokens_word_quoted (isWord_mnemonicText i) (asciiByte_ofNat hb)) hi rfl

end Sys2Proof.Machine
end
